-- ==== Sys2Proof/Word.lean ====
section
/-! DEFINITION. The byte (00_scope.md R16): an unsigned 8-bit value, bit 7 the most significant. -/

namespace Sys2Proof

/-- A byte of the spec (R16). -/
abbrev Byte := BitVec 8

end Sys2Proof
end

