-- ==== Sys2Proof/Config.lean ====
section
/-! DEFINITION. The configuration record CFG (00_scope.md R11, 10_state.md R31 to R40) and its default values.
What is computed from it (sizes, legality) is in Machine/Params.lean. -/

namespace Sys2Proof

/-- CFG.CK_ALG (R34). The code 3 is reserved and illegal: no policy stands for it, so no instance has it (U13). -/
inductive CkAlg where
  | xor8
  | crc8
  | crc16
  deriving DecidableEq, Repr

/-- A CRC parameter set of width `w` (R40, 40_checksum.md R103). `poly` is written without its top term. -/
structure CrcParams (w : Nat) where
  poly   : BitVec w
  init   : BitVec w
  refIn  : Bool
  refOut : Bool
  xorOut : BitVec w
  deriving DecidableEq, Repr

/-- CFG (R31): constants fixed for the life of an instance. -/
structure Config where
  sync1      : Byte
  sync2      : Byte
  maxPayload : Nat
  ckAlg      : CkAlg
  maxRetries : BitVec 8
  timeout    : Nat
  ackCmd     : Byte
  nackCmd    : Byte
  autoAck    : Bool
  wTime      : Nat
  crc8       : CrcParams 8
  crc16      : CrcParams 16
  deriving DecidableEq, Repr

/-- The default of CFG.CRC8 (40_checksum.md R104; log 17). -/
def CrcParams.crc8Default : CrcParams 8 :=
  { poly := 0x07, init := 0x00, refIn := false, refOut := false, xorOut := 0x00 }

/-- The default of CFG.CRC16 (40_checksum.md R105; log 17). -/
def CrcParams.crc16Default : CrcParams 16 :=
  { poly := 0x1021, init := 0xFFFF, refIn := false, refOut := false, xorOut := 0x0000 }

/-- The default CFG (00_scope.md R11, 10_state.md R32 to R40; log 5 and log 17). -/
def Config.default : Config :=
  { sync1 := 0xAA, sync2 := 0x55, maxPayload := 32, ckAlg := .xor8, maxRetries := 3, timeout := 100,
    ackCmd := 0x06, nackCmd := 0x15, autoAck := false, wTime := 32,
    crc8 := CrcParams.crc8Default, crc16 := CrcParams.crc16Default }

end Sys2Proof
end

