-- ==== Sys2Proof/Machine/Params.lean ====
section
/-! DEFINITION. The constants derived from CFG (00_scope.md R12), the legality of a CFG (10_state.md R31 to R39) and
the numeric codes of the checksum policies (R34). -/

namespace Sys2Proof

/-- The codes of R34: XOR8 = 0, CRC8 = 1, CRC16 = 2. -/
def CkAlg.code : CkAlg → BitVec 2
  | .xor8 => 0
  | .crc8 => 1
  | .crc16 => 2

/-- The policy a code stands for (R34): 3 is reserved and illegal. -/
def CkAlg.ofCode (c : BitVec 2) : Option CkAlg :=
  if c = 0 then some .xor8 else if c = 1 then some .crc8 else if c = 2 then some .crc16 else none

/-- CK_SIZE of a policy (R12, 40_checksum.md R101). -/
def CkAlg.size : CkAlg → Nat
  | .xor8 => 1
  | .crc8 => 1
  | .crc16 => 2

/-- CK_SIZE (R12). -/
def Config.ckSize (cfg : Config) : Nat := cfg.ckAlg.size

/-- MIN_BODY (R12): command and checksum, empty payload. -/
def Config.minBody (cfg : Config) : Nat := 1 + cfg.ckSize

/-- MAX_BODY (R12): the largest legal value of the length field. -/
def Config.maxBody (cfg : Config) : Nat := 1 + cfg.maxPayload + cfg.ckSize

/-- OVERHEAD (R12): start, length, command and checksum. -/
def Config.overhead (cfg : Config) : Nat := 2 + 1 + 1 + cfg.ckSize

/-- MAX_FRAME (R12): the largest encoded frame, in bytes. -/
def Config.maxFrame (cfg : Config) : Nat := cfg.maxPayload + cfg.overhead

/-- The legality constraints of R33 (payload bound), R36 (timeout), R37 (distinct control commands) and R39 (width of
time). Every value of the other fields is legal (R32, R34, R35, R38). -/
def Config.legal (cfg : Config) : Bool :=
  decide (cfg.maxPayload + cfg.ckSize ≤ 254) && decide (1 ≤ cfg.timeout) &&
    decide (cfg.timeout < 2 ^ (cfg.wTime - 1)) && decide (cfg.ackCmd ≠ cfg.nackCmd) && decide (2 ≤ cfg.wTime)

end Sys2Proof
end

