-- ==== Sys2Proof/Machine/Checksum.lean ====
section
/-! DEFINITION. The Checksum Engine (40_checksum.md): xor8, crc, compute, verify, and the checksum's bytes on the wire. -/

namespace Sys2Proof.Machine

/-- The XOR fold (R102). -/
def xor8 (bytes : List Byte) : Byte := bytes.foldl (fun c b => c ^^^ b) 0

/-- One turn of the inner loop of R103: shift left, and xor the polynomial where the top bit was 1. -/
def crcBit {w : Nat} (P : CrcParams w) (r : BitVec w) : BitVec w :=
  if r.msb then (r <<< 1) ^^^ P.poly else r <<< 1

/-- `n` turns of the inner loop of R103. -/
def crcBits {w : Nat} (P : CrcParams w) : Nat → BitVec w → BitVec w
  | 0, r => r
  | n + 1, r => crcBits P n (crcBit P r)

/-- One byte of R103: it enters, reflected where REFIN says so, at the top 8 bits of the register. -/
def crcByte {w : Nat} (P : CrcParams w) (r : BitVec w) (b : Byte) : BitVec w :=
  crcBits P 8 (r ^^^ ((if P.refIn then b.reverse else b).setWidth w <<< (w - 8)))

/-- The CRC of R103: bytes in sequence order, then the output reflection and the final xor. -/
def crc {w : Nat} (P : CrcParams w) (bytes : List Byte) : BitVec w :=
  (if P.refOut then (bytes.foldl (crcByte P) P.init).reverse else bytes.foldl (crcByte P) P.init) ^^^ P.xorOut

/-- `compute` (R100): the policy CFG names. The value of 8 * CK_SIZE bits is held in 16 bits, zero-extended (log 15). -/
def compute (cfg : Config) (bytes : List Byte) : BitVec 16 :=
  match cfg.ckAlg with
  | .xor8 => (xor8 bytes).setWidth 16
  | .crc8 => (crc cfg.crc8 bytes).setWidth 16
  | .crc16 => crc cfg.crc16 bytes

/-- `verify` (R107). -/
def verify (cfg : Config) (bytes : List Byte) (claimed : BitVec 16) : Bool := compute cfg bytes == claimed

/-- The checksum field of a value (41_frame_codec.md R121): one byte, or two with the most significant first
(20_memory.md R53). -/
def checksumBytes (cfg : Config) (v : BitVec 16) : List Byte :=
  match cfg.ckAlg with
  | .xor8 => [v.extractLsb' 0 8]
  | .crc8 => [v.extractLsb' 0 8]
  | .crc16 => [v.extractLsb' 8 8, v.extractLsb' 0 8]

end Sys2Proof.Machine
end

