-- ==== Sys2Proof/Syntax.lean ====
section
/-! DEFINITION. The instructions (one constructor per row of spec/opcode_table.json) and their encoded form. -/

namespace Sys2Proof

/-- The operand `kind` of SENDCTRL (43_reliability.md R185): 0 = ACK, 1 = NACK. -/
inductive CtrlKind where
  | ack
  | nack
  deriving DecidableEq, Repr

/-- The rows of the opcode table: the five operations of port OP (30_encoding.md R78) and the three classes of a
frame on the inbound stream (R73, R80). A frame carries its wire fields (R70): the length byte, the command where the
class does not fix it, the payload, and the checksum byte(s). -/
inductive Instr where
  | send (command : Byte) (payload : List Byte)
  | feedByte (byte : Byte)
  | tick
  | abort
  | sendCtrl (kind : CtrlKind)
  | frameAck (length : Byte) (payload checksum : List Byte)
  | frameNack (length : Byte) (payload checksum : List Byte)
  | frameOrdinary (length command : Byte) (payload checksum : List Byte)
  deriving DecidableEq, Repr

/-- The encoded form of an instruction: a request on port OP is a 4-bit op code and operand bytes (R78, laid out as
95_test_vectors.md part 6 writes them; log 10); a frame is its bytes on the inbound stream (R70; log 7). -/
inductive Packet where
  | op (code : BitVec 4) (operands : List Byte)
  | wire (bytes : List Byte)
  deriving DecidableEq, Repr

end Sys2Proof
end

