-- ==== Sys2Proof/Machine/Operands.lean ====
section
/-! DEFINITION. Operand assembly: the fields of a candidate frame (30_encoding.md R76), the operand bytes of an
operation request (R78), and the slices of byte sequences R16 writes `s[i]` and `s[i..j]`. -/

namespace Sys2Proof.Machine

/-- `s[i]` of R16. It is used only at indices below `len(s)`, which the callers check first. -/
def byteAt (s : List Byte) (i : Nat) : Byte := s.getD i 0

/-- `s[i..j]` of R16: bytes `i` to `j` inclusive, empty when `j < i`. -/
def slice (s : List Byte) (i j : Nat) : List Byte := (s.drop i).take (j + 1 - i)

/-- `length` of R76. -/
def spanLength (s : List Byte) : Byte := byteAt s 2

/-- `payload_len` of R76. -/
def spanPayloadLen (cfg : Config) (s : List Byte) : Nat := (spanLength s).toNat - 1 - cfg.ckSize

/-- `command` of R76. -/
def spanCommand (s : List Byte) : Byte := byteAt s 3

/-- `payload` of R76. -/
def spanPayload (cfg : Config) (s : List Byte) : List Byte := slice s 4 (3 + spanPayloadLen cfg s)

/-- `covered` of R76: command and payload (R75). -/
def spanCovered (cfg : Config) (s : List Byte) : List Byte := slice s 3 (3 + spanPayloadLen cfg s)

/-- `claimed` of R76: the checksum field as a number, most significant byte first where it has two. -/
def spanClaimed (cfg : Config) (s : List Byte) : BitVec 16 :=
  let L := (spanLength s).toNat
  match cfg.ckAlg with
  | .xor8 => (byteAt s (L + 2)).setWidth 16
  | .crc8 => (byteAt s (L + 2)).setWidth 16
  | .crc16 => ((byteAt s (L + 1)).setWidth 16 <<< 8) ||| (byteAt s (L + 2)).setWidth 16

/-- The bound its caller enforces before `decode` (41_frame_codec.md R124). -/
def delimited (cfg : Config) (s : List Byte) : Bool :=
  decide (3 ≤ s.length) && decide (byteAt s 0 = cfg.sync1) && decide (byteAt s 1 = cfg.sync2) &&
    decide (cfg.minBody ≤ (spanLength s).toNat) && decide ((spanLength s).toNat ≤ cfg.maxBody) &&
    decide (s.length = (spanLength s).toNat + 3)

/-- The bytes of a frame with the given fields, in wire order (20_memory.md R52). -/
def wireBytes (cfg : Config) (length command : Byte) (payload checksum : List Byte) : List Byte :=
  cfg.sync1 :: cfg.sync2 :: length :: command :: (payload ++ checksum)

/-- `kind` of SENDCTRL as its operand bit (43_reliability.md R185). -/
def ctrlCode : CtrlKind → Byte
  | .ack => 0
  | .nack => 1

/-- The `kind` an operand byte stands for: one bit, so any other value is none (log 10). -/
def ctrlOfCode (b : Byte) : Option CtrlKind := if b = 0 then some .ack else if b = 1 then some .nack else none

/-- The command a control frame of this kind carries (R185). -/
def ctrlCommand (cfg : Config) : CtrlKind → Byte
  | .ack => cfg.ackCmd
  | .nack => cfg.nackCmd

end Sys2Proof.Machine
end

