-- ==== Sys2Proof/Machine/Codec.lean ====
section
/-! DEFINITION. The Frame Codec (41_frame_codec.md): encode and decode. It has no state (R120). -/

namespace Sys2Proof.Machine

/-- A Frame value (R120): the pair (command, payload). -/
structure Frame where
  command : Byte
  payload : List Byte
  deriving DecidableEq, Repr

/-- What `decode` answers (R123), and the case the spec gives no meaning (R124, D25). -/
inductive SpanResult where
  | frame (f : Frame)
  | checksumMismatch
  | undelimited
  deriving DecidableEq, Repr

/-- The bytes `encode` builds (R121), before its bound on the payload. -/
def frameBytes (cfg : Config) (command : Byte) (payload : List Byte) : List Byte :=
  wireBytes cfg (BitVec.ofNat 8 (1 + payload.length + cfg.ckSize)) command payload
    (checksumBytes cfg (compute cfg (command :: payload)))

/-- `encode` (R121): none is the error PayloadTooLarge. -/
def encodeFrame (cfg : Config) (command : Byte) (payload : List Byte) : Option (List Byte) :=
  if payload.length > cfg.maxPayload then none else some (frameBytes cfg command payload)

/-- `decode` (R123), on a span inside its precondition (R124). -/
def decodeSpan (cfg : Config) (span : List Byte) : SpanResult :=
  if delimited cfg span then
    if verify cfg (spanCovered cfg span) (spanClaimed cfg span) then
      .frame { command := spanCommand span, payload := spanPayload cfg span }
    else .checksumMismatch
  else .undelimited

end Sys2Proof.Machine
end

