-- ==== Sys2Proof/WellFormed.lean ====
section
/-! DEFINITION. Which instructions are well formed under a CFG: a SEND whose payload length fits its operand
(30_encoding.md R78), and a frame that is valid on the wire (R72, R75) and of its own class (R73). An instruction that
is not well formed still has a meaning where the block can meet it: an invalid frame is dropped by the receiver (R81). -/

namespace Sys2Proof

/-- The length field of a valid frame (R72): within its bounds and equal to 1 + payload_len + CK_SIZE. -/
def lengthOk (cfg : Config) (length : Byte) (payload : List Byte) : Bool :=
  decide (cfg.minBody ≤ length.toNat) && decide (length.toNat ≤ cfg.maxBody) &&
    decide (length.toNat = 1 + payload.length + cfg.ckSize)

/-- The checksum field of a valid frame (R75): the bytes of `compute(command || payload)`. -/
def checksumOk (cfg : Config) (command : Byte) (payload checksum : List Byte) : Bool :=
  decide (checksum = Machine.checksumBytes cfg (Machine.compute cfg (command :: payload)))

/-- The command of an ordinary frame (R73): neither reserved value. -/
def ordinaryCommand (cfg : Config) (command : Byte) : Bool :=
  decide (command ≠ cfg.ackCmd) && decide (command ≠ cfg.nackCmd)

/-- Well-formedness of an instruction under a CFG. -/
def wellFormed (cfg : Config) : Instr → Bool
  | .send _ payload => decide (payload.length ≤ 255)
  | .feedByte _ => true
  | .tick => true
  | .abort => true
  | .sendCtrl _ => true
  | .frameAck length payload checksum => lengthOk cfg length payload && checksumOk cfg cfg.ackCmd payload checksum
  | .frameNack length payload checksum => lengthOk cfg length payload && checksumOk cfg cfg.nackCmd payload checksum
  | .frameOrdinary length command payload checksum =>
    lengthOk cfg length payload && checksumOk cfg command payload checksum && ordinaryCommand cfg command

end Sys2Proof
end

