-- ==== Sys2Proof/Decode.lean ====
section
/-! DEFINITION. The decoder of requests and frames (30_encoding.md R78, R80, R81), total on any packet and rejecting by
name; after it the encoder; and the words of spec/opcode_table.json as packets. -/

namespace Sys2Proof

/-- Why a packet is no instruction. -/
inductive DecodeError where
  /-- op 0x0 or 0x6..0xF (R81, U12). -/
  | reservedOpcode (code : BitVec 4)
  /-- The operand bytes are not those of the operation: too few, too many, or a `kind` that is no bit (R78; log 10). -/
  | badOperands (code : BitVec 4)
  /-- The bytes do not begin with SYNC1, SYNC2 (R71). -/
  | noStartMarker
  /-- Fewer than the four header bytes (R70). -/
  | shortHeader
  /-- The bytes after the command are not the `length - 1` bytes the length field says (R77). -/
  | bodySize
  deriving DecidableEq, Repr

/-- What decoding a packet gives. -/
inductive Decoded where
  | instr (i : Instr)
  | rejected (e : DecodeError)
  deriving DecidableEq, Repr

/-- The instruction, where there is one. -/
def Decoded.toOption : Decoded → Option Instr
  | .instr i => some i
  | .rejected _ => none

/-- The operands of SEND: command, payload_len, and exactly payload_len bytes (R78). -/
def decodeSend : List Byte → Decoded
  | command :: payloadLen :: payload =>
    if payload.length = payloadLen.toNat then .instr (.send command payload) else .rejected (.badOperands 1)
  | _ => .rejected (.badOperands 1)

/-- The operand of FEEDBYTE: one byte (R78). -/
def decodeFeedByte : List Byte → Decoded
  | [b] => .instr (.feedByte b)
  | _ => .rejected (.badOperands 2)

/-- The operand of SENDCTRL: one bit (R78). -/
def decodeSendCtrl : List Byte → Decoded
  | [b] =>
    match Machine.ctrlOfCode b with
    | some kind => .instr (.sendCtrl kind)
    | none => .rejected (.badOperands 5)
  | _ => .rejected (.badOperands 5)

/-- An operation without operands (R78). -/
def decodeBare (code : BitVec 4) (i : Instr) : List Byte → Decoded
  | [] => .instr i
  | _ => .rejected (.badOperands code)

/-- A request on port OP, by its 4-bit op code (R78, R80). -/
def decodeOp (code : BitVec 4) (operands : List Byte) : Decoded :=
  if code = 1 then decodeSend operands
  else if code = 2 then decodeFeedByte operands
  else if code = 3 then decodeBare code .tick operands
  else if code = 4 then decodeBare code .abort operands
  else if code = 5 then decodeSendCtrl operands
  else .rejected (.reservedOpcode code)

/-- The class of a frame, by its command alone (R73), with the bytes after the command split into payload and checksum
(R76). -/
def classify (cfg : Config) (length command : Byte) (rest : List Byte) : Instr :=
  let payload := rest.take (length.toNat - 1 - cfg.ckSize)
  let checksum := rest.drop (length.toNat - 1 - cfg.ckSize)
  if command = cfg.ackCmd then .frameAck length payload checksum
  else if command = cfg.nackCmd then .frameNack length payload checksum
  else .frameOrdinary length command payload checksum

/-- A frame on the wire (R70): the marker, the length, the command, and the `length - 1` bytes that follow. Whether it
is valid (length in range, checksum) is `wellFormed`'s to say, not the decoder's (R80; log 8). -/
def decodeWire (cfg : Config) : List Byte → Decoded
  | s0 :: s1 :: length :: command :: rest =>
    if s0 = cfg.sync1 ∧ s1 = cfg.sync2 then
      if rest.length = length.toNat - 1 then .instr (classify cfg length command rest) else .rejected .bodySize
    else .rejected .noStartMarker
  | _ => .rejected .shortHeader

/-- The decoder. -/
def decode (cfg : Config) : Packet → Decoded
  | .op code operands => decodeOp code operands
  | .wire bytes => decodeWire cfg bytes

/-- The encoder, from the same tables (R70, R78). -/
def encode (cfg : Config) : Instr → Packet
  | .send command payload => .op 1 (command :: BitVec.ofNat 8 payload.length :: payload)
  | .feedByte b => .op 2 [b]
  | .tick => .op 3 []
  | .abort => .op 4 []
  | .sendCtrl kind => .op 5 [Machine.ctrlCode kind]
  | .frameAck length payload checksum => .wire (Machine.wireBytes cfg length cfg.ackCmd payload checksum)
  | .frameNack length payload checksum => .wire (Machine.wireBytes cfg length cfg.nackCmd payload checksum)
  | .frameOrdinary length command payload checksum => .wire (Machine.wireBytes cfg length command payload checksum)

/-- The operand bytes an op code takes when all of them are zero: SEND has its command and a payload_len of 0. -/
def zeroOperands (code : BitVec 4) : List Byte :=
  if code = 1 then [0, 0] else if code = 2 then [0] else if code = 5 then [0] else []

/-- The four bytes of a header word, byte 0 in bits 31:24 (R70). -/
def headerBytes (hdr : BitVec 32) : List Byte :=
  [hdr.extractLsb' 24 8, hdr.extractLsb' 16 8, hdr.extractLsb' 8 8, hdr.extractLsb' 0 8]

/-- The packet a word of the opcode table stands for (log 19): up to 8 bits, a request whose op code is bits 3:0; more,
the header word of a frame. Every bit above the word is 0. -/
def tableWordPacket (nbits w : Nat) : Packet :=
  if nbits ≤ 8 then .op (BitVec.ofNat 4 w) (zeroOperands (BitVec.ofNat 4 w))
  else
    let hdr := BitVec.ofNat 32 w
    .wire (headerBytes hdr ++ List.replicate ((hdr.extractLsb' 8 8 : Byte).toNat - 1) 0)

/-- The instruction the decoder reads from a word of the opcode table, under the default CFG for which the table's
frame rows hold (R80). -/
def decodeTableWord (nbits w : Nat) : Option Instr := (decode Config.default (tableWordPacket nbits w)).toOption

end Sys2Proof
end

