-- ==== Sys2Proof/Machine/State.lean ====
section
/-! DEFINITION. The state of one ES-CORE instance (10_state.md R20), its ports (00_scope.md R14), the reasons a step
can stop, and the state after reset (R47). -/

namespace Sys2Proof.Machine

/-- RX_STATE (10_state.md R21). VALIDATE is never held between operations. -/
inductive RxState where
  | seekSync1
  | seekSync2
  | readLength
  | readBody
  deriving DecidableEq, Repr

/-- RC_STATE (10_state.md R26): `sent` is "a PendingTransmission exists". -/
inductive RcState where
  | idle
  | sent
  deriving DecidableEq, Repr

/-- What SEND returns on port RES (60_exceptions.md R210). -/
inductive SendResult where
  | ok
  | linkBusy
  | payloadTooLarge
  deriving DecidableEq, Repr

/-- The status of `onSendResolved` (60_exceptions.md R220). -/
inductive ResolveStatus where
  | ok
  | retriesExhausted
  deriving DecidableEq, Repr

/-- The events of port EV (60_exceptions.md R220). A delivered frame is its pair (command, payload) (R120). -/
inductive Event where
  | frameDelivered (command : Byte) (payload : List Byte)
  | sendResolved (status : ResolveStatus)
  deriving DecidableEq, Repr

/-- The seven conditions (60_exceptions.md R211). -/
inductive Condition where
  | syncLost
  | lengthOverflow
  | checksumMismatch
  | payloadTooLarge
  | linkBusy
  | nackReceived
  | retriesExhausted
  deriving DecidableEq, Repr

/-- A byte buffer: its written bytes by index, indices strictly rising. An unlisted index has no value
(93_implementation_defined.md U15; log 1). -/
abbrev Memory := List Host.Cell

/-- The canonical form of a buffer. No entry can equal what an unlisted index reads as, since that is no value. -/
abbrev Memory.wf (m : Memory) : Prop := List.Pairwise (fun x y : Host.Cell => x.1 < y.1) m

/-- One input of the host: a packet presented while port T carries `now`, or the reset request RST (log 3, log 16). -/
inductive Input where
  | perform (now : Nat) (packet : Packet)
  | rst
  deriving DecidableEq, Repr

/-- The state. The first ten fields are the registers of R20; `portT`, `res`, `tx` and `ev` are the ports T, RES, TX
and EV of R14; `inq` (what the host will request, oldest first) and `trace` (the conditions raised, R212) are the
model's own (log 3, log 12). -/
structure State where
  cfg        : Config
  rxState    : RxState
  rxLen      : BitVec 8
  rxRemain   : BitVec 8
  rxBuf      : Memory
  rcState    : RcState
  ptFrame    : Memory
  ptFlen     : BitVec 9
  ptRetries  : BitVec 8
  ptDeadline : Nat
  portT      : Nat
  res        : List SendResult
  tx         : List (List Byte)
  ev         : List Event
  inq        : List Input
  trace      : List Condition
  deriving DecidableEq, Repr

/-- Why the machine stops. Each is raised only in states that no run from reset reaches (log 13). -/
inductive Fault where
  /-- Raised by `retry` and `validate` when they read a buffer byte nothing has written. Safe: the spec calls this
  read a model fault (93_implementation_defined.md U15). -/
  | bufferUnwritten
  /-- Raised by `readBody` and `send` when they store at or above the capacity of the buffer. Safe: the spec gives the
  buffer no such index (20_memory.md R50). -/
  | bufferOutOfRange
  /-- Raised by `readBody` when RX_REMAIN is 0 or above RX_LEN. Safe: the spec says no such state exists between two
  operations (10_state.md R25) and gives it no behaviour. -/
  | rxCountOutOfRange
  deriving DecidableEq, Repr

/-- What the model gives no meaning. -/
inductive Refusal where
  /-- Raised by `exec` for an instruction without a meaning yet. Safe. -/
  | notModelled (mnemonic : String)
  /-- Raised by `rejectPacket` for op 0x0 and 0x6..0xF. Safe: the spec gives them no meaning (30_encoding.md R81,
  93_implementation_defined.md U12). -/
  | reservedOpcode (code : BitVec 4)
  /-- Raised by `rejectPacket` for a request whose operand bytes are not those of its operation. Safe: port OP carries
  an operation code and the operands of that operation (30_encoding.md R78; log 10). -/
  | badOperands (code : BitVec 4)
  /-- Raised by every step and every meaning when CFG is illegal. Safe: the spec gives such an instance no behaviour
  (10_state.md R31, 93_implementation_defined.md U13). -/
  | illegalConfig
  /-- Raised by `validate` for a span outside the precondition of `decode`. Safe: the spec gives that case no meaning
  (41_frame_codec.md R124, 93_implementation_defined.md U14). -/
  | undelimitedSpan
  deriving DecidableEq, Repr

/-- The state after reset (R47, 70_reset_and_hazards.md R250), under the default CFG (log 5), nothing emitted, no
request waiting, port T at 0 (log 2). -/
def State.reset : State :=
  { cfg := Config.default, rxState := .seekSync1, rxLen := 0, rxRemain := 0, rxBuf := [], rcState := .idle,
    ptFrame := [], ptFlen := 0, ptRetries := 0, ptDeadline := 0, portT := 0, res := [], tx := [], ev := [],
    inq := [], trace := [] }

/-- The answer of a meaning. -/
abbrev Result := Host.Outcome State Fault Refusal

end Sys2Proof.Machine
end

