-- ==== Sys2Proof/Machine/Flags.lean ====
section
/-! DEFINITION. The block has no flags (10_state.md R42). What other machines compute into flags is here: the numeric
codes of states, conditions and events (R21, R26, 60_exceptions.md R211, R220), and the comparison of times
(43_reliability.md R171). -/

namespace Sys2Proof.Machine

/-- The codes of RX_STATE (R21). -/
def rxStateCode : RxState → BitVec 2
  | .seekSync1 => 0
  | .seekSync2 => 1
  | .readLength => 2
  | .readBody => 3

/-- The codes of RC_STATE (R26). -/
def rcStateCode : RcState → BitVec 1
  | .idle => 0
  | .sent => 1

/-- The codes of the conditions (R211); 0 is Ok, no condition. The spec gives the numbers and no width; three bits are a
DESIGN CHOICE (log 21). -/
def conditionCode : Condition → BitVec 3
  | .syncLost => 1
  | .lengthOverflow => 2
  | .checksumMismatch => 3
  | .payloadTooLarge => 4
  | .linkBusy => 5
  | .nackReceived => 6
  | .retriesExhausted => 7

/-- Whether a condition is internal, visible on no port (R210, R212). -/
def conditionInternal : Condition → Bool
  | .syncLost => true
  | .lengthOverflow => true
  | .checksumMismatch => true
  | .payloadTooLarge => false
  | .linkBusy => false
  | .nackReceived => true
  | .retriesExhausted => false

/-- What SEND drives on RES, as a condition code (R211), in its width (log 21). -/
def sendResultCode : SendResult → BitVec 3
  | .ok => 0
  | .linkBusy => conditionCode .linkBusy
  | .payloadTooLarge => conditionCode .payloadTooLarge

/-- The status code of `onSendResolved` (R220): 0 or 7. The spec gives no width for this field; one byte is a DESIGN
CHOICE (log 21). -/
def statusCode : ResolveStatus → Byte
  | .ok => 0
  | .retriesExhausted => (conditionCode .retriesExhausted).setWidth 8

/-- `kind` of an event (R220): 0 or 1. The spec gives no width; one bit is a DESIGN CHOICE (log 21). -/
def eventKind : Event → BitVec 1
  | .frameDelivered _ _ => 0
  | .sendResolved _ => 1

/-- The fields of an event, in order (R220), as bytes; the status as one byte (log 21). -/
def eventFields : Event → List Byte
  | .frameDelivered command payload => command :: BitVec.ofNat 8 payload.length :: payload
  | .sendResolved status => [statusCode status]

/-- `deadline_from(now)` (R171). -/
def deadlineFrom (cfg : Config) (now : Nat) : Nat := (now + cfg.timeout) % 2 ^ cfg.wTime

/-- `expired(now, d)` (R171): `((now - d) mod 2^W_TIME) < 2^(W_TIME - 1)`, the difference taken in the integers. -/
def expired (cfg : Config) (now d : Nat) : Bool :=
  decide (((now : Int) - (d : Int)) % (2 ^ cfg.wTime : Int) < (2 ^ (cfg.wTime - 1) : Int))

end Sys2Proof.Machine
end

