-- ==== Sys2Proof/Machine/Ops.lean ====
section
/-! DEFINITION. The named operations over the buffers, the ports and the registers (00_scope.md R17), and raising a
condition (60_exceptions.md R225), from which every meaning is built. -/

namespace Sys2Proof.Machine

/-- The byte at an index of a buffer; none where nothing has written it (U15). -/
def readByte : Memory → Nat → Option Byte
  | [], _ => none
  | (k, v) :: m, a => if k = a then some v else readByte m a

/-- Store one byte, keeping the canonical form. -/
def writeByte : Memory → Nat → Byte → Memory
  | [], a, b => [(a, b)]
  | (k, v) :: m, a, b =>
    if a < k then (a, b) :: (k, v) :: m else if a = k then (a, b) :: m else (k, v) :: writeByte m a b

/-- Store a byte sequence from index `i` on. -/
def writeSpan (m : Memory) (i : Nat) : List Byte → Memory
  | [] => m
  | b :: bs => writeSpan (writeByte m i b) (i + 1) bs

/-- `MemRead(B, i, n)` (R17): none where it meets an unwritten byte. -/
def memRead (m : Memory) (i : Nat) : Nat → Option (List Byte)
  | 0 => some []
  | n + 1 =>
    match readByte m i, memRead m (i + 1) n with
    | some b, some bs => some (b :: bs)
    | _, _ => none

/-- `MemWrite(B, i, n, v)` (R17) on a buffer of `cap` bytes: none where it would leave the buffer (20_memory.md R50). -/
def memWrite (cap : Nat) (m : Memory) (i : Nat) (bs : List Byte) : Option Memory :=
  if i + bs.length ≤ cap then some (writeSpan m i bs) else none

/-- `now` (43_reliability.md R171): the sample of port T, W_TIME bits (log 14). -/
def now (s : State) : Nat := s.portT % 2 ^ s.cfg.wTime

/-- `TX.emit` (R17): one whole frame (20_memory.md R51). -/
def txEmit (f : List Byte) (s : State) : State := { s with tx := s.tx ++ [f] }

/-- `EV.emit` (R17). -/
def evEmit (e : Event) (s : State) : State := { s with ev := s.ev ++ [e] }

/-- `return r` (R17): drive a result on RES. -/
def resReturn (r : SendResult) (s : State) : State := { s with res := s.res ++ [r] }

/-- Note a condition in the model's trace (60_exceptions.md R212; log 12). -/
def note (c : Condition) (s : State) : State := { s with trace := s.trace ++ [c] }

/-- `raise` (R17, 60_exceptions.md R225): the condition's own effect. It saves nothing and transfers control nowhere,
and there is no return from it (R226). SyncLost moves RX_STATE as the row of the transition table that raises it says;
NACKReceived is followed by a retry or by RetriesExhausted (R218). -/
def raise (c : Condition) (s : State) : State :=
  match c with
  | .syncLost => note .syncLost s
  | .lengthOverflow => note .lengthOverflow { s with rxState := .seekSync1 }
  | .checksumMismatch => note .checksumMismatch { s with rxState := .seekSync1 }
  | .payloadTooLarge => resReturn .payloadTooLarge (note .payloadTooLarge s)
  | .linkBusy => resReturn .linkBusy (note .linkBusy s)
  | .nackReceived => note .nackReceived s
  | .retriesExhausted => evEmit (.sendResolved .retriesExhausted) (note .retriesExhausted { s with rcState := .idle })

/-- An instance with an illegal CFG has no behaviour (10_state.md R31, U13; log 6). -/
def withLegalCfg (s : State) (r : Result) : Result := if s.cfg.legal then r else .refused .illegalConfig

/-- Go on from a next state; a fault or a refusal stands. -/
def andThen (r : Result) (k : State → Result) : Result :=
  match r with
  | .next s => k s
  | .fault f => .fault f
  | .refused f => .refused f

/-- The reset of RST (70_reset_and_hazards.md R250): the registers as in R47, CFG untouched, nothing emitted. The ports
and what the host has still to request are not the block's to reset (log 16). -/
def applyReset (s : State) : State :=
  { s with rxState := .seekSync1, rxLen := 0, rxRemain := 0, rxBuf := [], rcState := .idle, ptFrame := [],
           ptFlen := 0, ptRetries := 0, ptDeadline := 0 }

end Sys2Proof.Machine
end

