-- ==== Sys2Proof/Machine/Reliability.lean ====
section
/-! DEFINITION. The Reliability Controller (43_reliability.md): SEND, onFrame with its three arms, retry, TICK, ABORT,
SENDCTRL. -/

namespace Sys2Proof.Machine

/-- `SEND(command, payload)` (R172, R186). LinkBusy is tested first (60_exceptions.md R221). -/
def send (command : Byte) (payload : List Byte) (s : State) : Result :=
  if s.rcState = .sent then .next (raise .linkBusy s)
  else
    match encodeFrame s.cfg command payload with
    | none => .next (raise .payloadTooLarge s)
    | some f =>
      match memWrite s.cfg.maxFrame s.ptFrame 0 f with
      | none => .fault .bufferOutOfRange
      | some buf =>
        .next (resReturn .ok { txEmit f s with
          ptFrame := buf, ptFlen := BitVec.ofNat 9 f.length, ptRetries := s.cfg.maxRetries,
          ptDeadline := deadlineFrom s.cfg (now s), rcState := .sent })

/-- The retry action (R176); its callers have checked `RC_STATE = SENT` and `PT_RETRIES > 0`. -/
def retry (s : State) : Result :=
  match memRead s.ptFrame 0 s.ptFlen.toNat with
  | none => .fault .bufferUnwritten
  | some f => .next { txEmit f s with
      ptRetries := s.ptRetries - 1, ptDeadline := deadlineFrom s.cfg (now s) }

/-- An attempt has failed (60_exceptions.md R219; R177, R180): a retry while one is left, else RetriesExhausted. -/
def attemptFailed (s : State) : Result :=
  if s.ptRetries = 0 then .next (raise .retriesExhausted s) else retry s

/-- A control frame with an empty payload (30_encoding.md R82): `encode(c, [])`, which cannot fail (R181, R185). -/
def controlFrame (cfg : Config) (command : Byte) : List Byte := frameBytes cfg command []

/-- `auto_ack()` (R181). -/
def autoAck (s : State) : State := txEmit (controlFrame s.cfg s.cfg.ackCmd) s

/-- The ACK arm (R175); ignored when nothing is pending (R179). -/
def onAck (s : State) : State :=
  if s.rcState = .sent then evEmit (.sendResolved .ok) { s with rcState := .idle } else s

/-- The NACK arm (R177); ignored when nothing is pending (R179). -/
def onNack (s : State) : Result :=
  if s.rcState = .sent then attemptFailed (raise .nackReceived s) else .next s

/-- The ordinary arm (R178). -/
def onOrdinary (f : Frame) (s : State) : State :=
  evEmit (.frameDelivered f.command f.payload) (if s.cfg.autoAck then autoAck s else s)

/-- `onFrame(frame)` (R174). The payload of a control frame is ignored (30_encoding.md R82). -/
def onFrame (f : Frame) (s : State) : Result :=
  if f.command = s.cfg.ackCmd then .next (onAck s)
  else if f.command = s.cfg.nackCmd then onNack s
  else .next (onOrdinary f s)

/-- `TICK` (R180): at most one retry or one failure report (R182). -/
def tick (s : State) : Result :=
  if s.rcState = .sent ∧ expired s.cfg (now s) s.ptDeadline = true then attemptFailed s else .next s

/-- `ABORT` (R184). -/
def abort (s : State) : State := { s with rcState := .idle }

/-- `SENDCTRL(kind)` (R185). -/
def sendCtrl (kind : CtrlKind) (s : State) : State := txEmit (controlFrame s.cfg (ctrlCommand s.cfg kind)) s

/-- The meaning of SEND. -/
def execSend (command : Byte) (payload : List Byte) (s : State) : Result := withLegalCfg s (send command payload s)

/-- The meaning of TICK. -/
def execTick (s : State) : Result := withLegalCfg s (tick s)

/-- The meaning of ABORT. -/
def execAbort (s : State) : Result := withLegalCfg s (.next (abort s))

/-- The meaning of SENDCTRL. -/
def execSendCtrl (kind : CtrlKind) (s : State) : Result := withLegalCfg s (.next (sendCtrl kind s))

end Sys2Proof.Machine
end

