-- ==== Sys2Proof/Machine/Receiver.lean ====
section
/-! DEFINITION. The Receiver Synchronizer (42_receiver_sync.md): FEEDBYTE and its states. -/

namespace Sys2Proof.Machine

/-- State SEEK_SYNC1 (R142). -/
def seekSync1 (b : Byte) (s : State) : State :=
  if b = s.cfg.sync1 then { s with rxState := .seekSync2 } else raise .syncLost s

/-- State SEEK_SYNC2 (R143). The test against SYNC2 comes first. -/
def seekSync2 (b : Byte) (s : State) : State :=
  if b = s.cfg.sync2 then { s with rxState := .readLength }
  else if b = s.cfg.sync1 then { raise .syncLost s with rxState := .seekSync2 }
  else { raise .syncLost s with rxState := .seekSync1 }

/-- State READ_LENGTH (R144). A rejected length byte is consumed, not examined again. -/
def readLength (b : Byte) (s : State) : State :=
  if b.toNat > s.cfg.maxBody ∨ b.toNat < s.cfg.minBody then raise .lengthOverflow s
  else { s with rxLen := b, rxRemain := b, rxState := .readBody }

/-- Step VALIDATE (R146): rebuild the span (10_state.md R24), decode it, and hand a valid frame to onFrame. -/
def validate (s : State) : Result :=
  match memRead s.rxBuf 0 s.rxLen.toNat with
  | none => .fault .bufferUnwritten
  | some body =>
    match decodeSpan s.cfg (s.cfg.sync1 :: s.cfg.sync2 :: s.rxLen :: body) with
    | .undelimited => .refused .undelimitedSpan
    | .checksumMismatch => .next (raise .checksumMismatch { s with rxState := .seekSync1 })
    | .frame f => onFrame f { s with rxState := .seekSync1 }

/-- The store index of READ_BODY (R145): RX_LEN - RX_REMAIN. -/
def rxIndex (s : State) : Nat := s.rxLen.toNat - s.rxRemain.toNat

/-- State READ_BODY (R145), continuing into VALIDATE with the last body byte. -/
def readBody (b : Byte) (s : State) : Result :=
  if s.rxRemain = 0 ∨ s.rxLen.toNat < s.rxRemain.toNat then .fault .rxCountOutOfRange
  else
    match memWrite s.cfg.maxBody s.rxBuf (rxIndex s) [b] with
    | none => .fault .bufferOutOfRange
    | some buf =>
      if s.rxRemain = 1 then validate { s with rxBuf := buf, rxRemain := 0 }
      else .next { s with rxBuf := buf, rxRemain := s.rxRemain - 1 }

/-- `FEEDBYTE(b)` (R140, R141). -/
def feedByte (b : Byte) (s : State) : Result :=
  match s.rxState with
  | .seekSync1 => .next (seekSync1 b s)
  | .seekSync2 => .next (seekSync2 b s)
  | .readLength => .next (readLength b s)
  | .readBody => readBody b s

/-- `feed(b0 ... bn)` (30_encoding.md R84): one FEEDBYTE after another, all at the same `now`. -/
def feedAll : List Byte → State → Result
  | [], s => .next s
  | b :: bs, s => andThen (feedByte b s) (feedAll bs)

/-- The meaning of FEEDBYTE. -/
def execFeedByte (b : Byte) (s : State) : Result := withLegalCfg s (feedByte b s)

end Sys2Proof.Machine
end

