-- ==== Sys2Proof/Machine/Frames.lean ====
section
/-! DEFINITION. The three frame classes of the opcode table: a whole frame arrives on the inbound stream, its bytes fed
one after another at one `now` (30_encoding.md R84; log 7). The receiver takes it in whatever state it is in, drops it
where it is invalid (R81), and hands a valid one to the arm of its class (43_reliability.md R174). -/

namespace Sys2Proof.Machine

/-- The meaning of FRAME.ACK: a frame with the command ACK_CMD arrives (R175 is what it does once validated). -/
def execFrameAck (length : Byte) (payload checksum : List Byte) (s : State) : Result :=
  withLegalCfg s (feedAll (wireBytes s.cfg length s.cfg.ackCmd payload checksum) s)

/-- The meaning of FRAME.NACK: a frame with the command NACK_CMD arrives (R177 once validated). -/
def execFrameNack (length : Byte) (payload checksum : List Byte) (s : State) : Result :=
  withLegalCfg s (feedAll (wireBytes s.cfg length s.cfg.nackCmd payload checksum) s)

/-- The meaning of FRAME.ORDINARY: a frame with any other command arrives (R178 once validated). -/
def execFrameOrdinary (length command : Byte) (payload checksum : List Byte) (s : State) : Result :=
  withLegalCfg s (feedAll (wireBytes s.cfg length command payload checksum) s)

end Sys2Proof.Machine
end

