-- ==== Sys2Proof/Machine/Dispatch.lean ====
section
/-! DEFINITION. One arm per row of spec/opcode_table.json. -/

namespace Sys2Proof.Machine

def exec (i : Instr) (s : State) : Host.Outcome State Fault Refusal :=
  match i with
  -- operations of port OP
  | .send command payload => Sys2Proof.Machine.execSend command payload s
  | .feedByte byte => Sys2Proof.Machine.execFeedByte byte s
  | .tick => Sys2Proof.Machine.execTick s
  | .abort => Sys2Proof.Machine.execAbort s
  | .sendCtrl kind => Sys2Proof.Machine.execSendCtrl kind s
  -- frames of the inbound stream
  | .frameAck length payload checksum => Sys2Proof.Machine.execFrameAck length payload checksum s
  | .frameNack length payload checksum => Sys2Proof.Machine.execFrameNack length payload checksum s
  | .frameOrdinary length command payload checksum => Sys2Proof.Machine.execFrameOrdinary length command payload checksum s

end Sys2Proof.Machine
end

