-- ==== Sys2Proof/Machine/Fetch.lean ====
section
/-! DEFINITION. Taking the next input of the host (20_memory.md R60): a packet is decoded and its instruction run, RST
resets, and with no input the block waits (00_scope.md R13, 70_reset_and_hazards.md R250). -/

namespace Sys2Proof.Machine

/-- A packet that is no instruction. A reserved or malformed request is refused by name (30_encoding.md R81, log 10).
Bytes on the inbound stream are never refused: the receiver takes any byte (20_memory.md R51; log 9). -/
def rejectPacket (p : Packet) (e : DecodeError) (s : State) : Result :=
  match p, e with
  | .wire bytes, _ => withLegalCfg s (feedAll bytes s)
  | .op _ _, .reservedOpcode code => .refused (.reservedOpcode code)
  | .op code _, _ => .refused (.badOperands code)

/-- Decode a packet under the instance's CFG and run it. -/
def runPacket (p : Packet) (s : State) : Result :=
  match decode s.cfg p with
  | .instr i => exec i s
  | .rejected e => rejectPacket p e s

/-- Take the next input; port T carries the packet's time while it runs (43_reliability.md R171). -/
def takeInput (s : State) : Result :=
  match s.inq with
  | [] => .next s
  | .rst :: rest => .next (applyReset { s with inq := rest })
  | .perform t p :: rest => runPacket p { s with inq := rest, portT := t }

/-- Put a packet in front of the inputs, at the time port T carries already. -/
def pushPacket (p : Packet) (s : State) : State := { s with inq := .perform s.portT p :: s.inq }

end Sys2Proof.Machine
end

