-- ==== Sys2Proof/Machine/Step.lean ====
section
/-! DEFINITION. One step: the next input of the host, under a legal CFG (10_state.md R31). -/

namespace Sys2Proof.Machine

/-- One atomic operation (20_memory.md R57). -/
def step (s : State) : Host.Outcome State Fault Refusal := withLegalCfg s (takeInput s)

/-- `s` with the packet of a word of the opcode table as its next input (log 3, log 19). -/
def State.withFetchWord (s : State) (nbits w : Nat) : State := pushPacket (tableWordPacket nbits w) s

end Sys2Proof.Machine
end

