-- ==== Sys2Proof/Safety.lean ====
section
/-! DEFINITION. What a good state is, and the words statements are written in: the invariants of the spec
(10_state.md R25, R27 to R30), a quiescent block (70_reset_and_hazards.md R255), and running several instructions. -/

namespace Sys2Proof.Machine

/-- The ReceiverContext invariant (R25), with the body bytes already stored readable (R23, R24). -/
def RxInv (s : State) : Prop :=
  s.rxState = .readBody →
    s.cfg.minBody ≤ s.rxLen.toNat ∧ s.rxLen.toNat ≤ s.cfg.maxBody ∧
    1 ≤ s.rxRemain.toNat ∧ s.rxRemain.toNat ≤ s.rxLen.toNat ∧
    (memRead s.rxBuf 0 (rxIndex s)).isSome = true

/-- The PendingTransmission invariant (R30): while one exists, PT_FRAME holds an encoded frame of PT_FLEN bytes. -/
def PtInv (s : State) : Prop :=
  s.rcState = .sent →
    ∃ command payload, payload.length ≤ s.cfg.maxPayload ∧
      s.ptFlen.toNat = (frameBytes s.cfg command payload).length ∧
      memRead s.ptFrame 0 s.ptFlen.toNat = some (frameBytes s.cfg command payload)

/-- Both buffers are in canonical form and within their capacity (20_memory.md R50). -/
def BufInv (s : State) : Prop :=
  Memory.wf s.rxBuf ∧ Memory.wf s.ptFrame ∧
    (∀ x ∈ s.rxBuf, x.1 < s.cfg.maxBody) ∧ (∀ x ∈ s.ptFrame, x.1 < s.cfg.maxFrame)

/-- The invariant of an instance between two operations. -/
structure Inv (s : State) : Prop where
  legal    : s.cfg.legal = true
  rx       : RxInv s
  pt       : PtInv s
  buf      : BufInv s
  retries  : s.ptRetries.toNat ≤ s.cfg.maxRetries.toNat
  deadline : s.ptDeadline < 2 ^ s.cfg.wTime

/-- A quiescent block (R255). -/
def Quiescent (s : State) : Prop := s.rcState = .idle ∧ s.rxState = .seekSync1

/-- The ReceiverContext is the same. -/
def SameRx (s t : State) : Prop :=
  t.rxState = s.rxState ∧ t.rxLen = s.rxLen ∧ t.rxRemain = s.rxRemain ∧ t.rxBuf = s.rxBuf

/-- The controller's state and the PendingTransmission are the same. -/
def SamePt (s t : State) : Prop :=
  t.rcState = s.rcState ∧ t.ptFrame = s.ptFrame ∧ t.ptFlen = s.ptFlen ∧ t.ptRetries = s.ptRetries ∧
    t.ptDeadline = s.ptDeadline

/-- The configuration and the inputs are the same. -/
def SameInputs (s t : State) : Prop := t.cfg = s.cfg ∧ t.portT = s.portT ∧ t.inq = s.inq

/-- Whether a condition is one of the receiver's (60_exceptions.md R223). -/
def receiverCondition : Condition → Bool
  | .syncLost => true
  | .lengthOverflow => true
  | .checksumMismatch => true
  | .payloadTooLarge => false
  | .linkBusy => false
  | .nackReceived => false
  | .retriesExhausted => false

/-- Whether an event resolves a SEND (60_exceptions.md R220). -/
def isResolved : Event → Bool
  | .frameDelivered _ _ => false
  | .sendResolved _ => true

/-- How many SENDs the events resolve. -/
def resolvedCount (es : List Event) : Nat := es.countP isResolved

/-- Instructions run one after another, at the same `now`. -/
def execAll : List Instr → State → Result
  | [], s => .next s
  | i :: is, s => andThen (exec i s) (execAll is)

/-- FEEDBYTE of each byte in turn (30_encoding.md R84). -/
def feeds (bytes : List Byte) : List Instr := bytes.map Instr.feedByte

/-- TICKs at the given times, nothing else between them. -/
def ticksAt : List Nat → State → Result
  | [], s => .next s
  | T :: Ts, s => andThen (exec .tick { s with portT := T }) (ticksAt Ts)

/-- The next state, where there is one. -/
def nextState : Result → Option State
  | .next s => some s
  | .fault _ => none
  | .refused _ => none

end Sys2Proof.Machine
end

