-- ==== Sys2Proof/Certificates/Slice0/Obligations.lean ====
section
/-! DEFINITION. The statements about ES-CORE, for the provers. Each docstring names the rule of spec/ it formalises, or
the sections it rests on and the log entry of a choice of the model's. -/

open Sys2Proof Sys2Proof.Machine

/-! ### Checksum Engine -/

/-- 40_checksum.md R102: the fold, and its corner cases. -/
def Obligations.Xor8FoldLaws : Prop :=
  xor8 [] = 0 ∧ (∀ (b : Byte) (bs : List Byte), xor8 (bs ++ [b]) = xor8 bs ^^^ b) ∧ (∀ b : Byte, xor8 [b] = b) ∧
  (∀ xs ys : List Byte, xs.Perm ys → xor8 xs = xor8 ys) ∧ (∀ b : Byte, xor8 [b, b] = 0) ∧
  (∀ xs ys : List Byte, xor8 (xs ++ 0 :: ys) = xor8 (xs ++ ys)) ∧ xor8 [0x01, 0x10, 0x20, 0x30] = 0x01

/-- 40_checksum.md section 3 and 95_test_vectors.md V1, V2, V3, V8: the check values of both default CRC sets, and of
three sets that take the reflection and final-xor paths. -/
def Obligations.CrcCheckValues : Prop :=
  let check : List Byte := [0x31, 0x32, 0x33, 0x34, 0x35, 0x36, 0x37, 0x38, 0x39]
  crc CrcParams.crc8Default check = 0xF4 ∧ crc CrcParams.crc8Default [] = 0x00 ∧
  crc CrcParams.crc8Default [0x00] = 0x00 ∧ crc CrcParams.crc8Default [0x01] = 0x07 ∧
  crc CrcParams.crc8Default [0x80] = 0x89 ∧ crc CrcParams.crc8Default [0xFF] = 0xF3 ∧
  crc CrcParams.crc8Default [0x01, 0x10, 0x20, 0x30] = 0x8A ∧
  crc CrcParams.crc16Default check = 0x29B1 ∧ crc CrcParams.crc16Default [] = 0xFFFF ∧
  crc CrcParams.crc16Default [0x00] = 0xE1F0 ∧ crc CrcParams.crc16Default [0x01] = 0xF1D1 ∧
  crc CrcParams.crc16Default [0x80] = 0x7078 ∧ crc CrcParams.crc16Default [0xFF] = 0xFF00 ∧
  crc CrcParams.crc16Default [0x01, 0x10, 0x20, 0x30] = 0x81A2 ∧
  crc { CrcParams.crc16Default with init := 0, refIn := true, refOut := true } check = 0x2189 ∧
  crc { CrcParams.crc8Default with poly := 0x31, refIn := true, refOut := true } check = 0xA1 ∧
  crc { CrcParams.crc16Default with xorOut := 0xFFFF } check = 0xD64E

/-- 40_checksum.md R107. -/
def Obligations.VerifyComparesTheFullValue : Prop :=
  (∀ (cfg : Config) (bytes : List Byte) (claimed : BitVec 16),
    verify cfg bytes claimed = true ↔ compute cfg bytes = claimed) ∧
  (∀ cfg : Config, cfg.ckAlg = .xor8 →
    verify cfg [0x01, 0x10, 0x20, 0x30] 0x01 = true ∧ verify cfg [0x01, 0x10, 0x20, 0x31] 0x01 = false)

/-- 40_checksum.md section 3, the residue property: appending a default CRC, most significant byte first, leaves 0. -/
def Obligations.AppendedCrcLeavesZero : Prop :=
  (∀ bytes : List Byte, crc CrcParams.crc8Default (bytes ++ [crc CrcParams.crc8Default bytes]) = 0) ∧
  (∀ bytes : List Byte,
    crc CrcParams.crc16Default (bytes ++ [(crc CrcParams.crc16Default bytes).extractLsb' 8 8,
      (crc CrcParams.crc16Default bytes).extractLsb' 0 8]) = 0)

/-- 40_checksum.md section 5 (a) and 90_conflicts.md C11: under each of the three policies, with the default CRC sets,
a change confined to one byte of the span changes the value. -/
def Obligations.SingleByteChangeChangesChecksum : Prop :=
  ∀ (cfg : Config) (pre post : List Byte) (b b' : Byte),
    cfg.crc8 = CrcParams.crc8Default → cfg.crc16 = CrcParams.crc16Default → b ≠ b' →
    compute cfg (pre ++ b :: post) ≠ compute cfg (pre ++ b' :: post)

/-! ### Frame Codec -/

/-- 20_memory.md R52: the order of the fields on the wire; with the length byte and the size of the result
(41_frame_codec.md section 2), and when there is none. -/
def Obligations.EncodeLaysOutTheFields : Prop :=
  ∀ (cfg : Config) (command : Byte) (payload : List Byte), cfg.legal = true →
    (cfg.maxPayload < payload.length → encodeFrame cfg command payload = none) ∧
    (payload.length ≤ cfg.maxPayload → ∃ length : Byte, ∃ checksum : List Byte,
      length.toNat = 1 + payload.length + cfg.ckSize ∧ checksum.length = cfg.ckSize ∧
      checksum = checksumBytes cfg (compute cfg (command :: payload)) ∧
      encodeFrame cfg command payload
        = some ([cfg.sync1, cfg.sync2] ++ [length] ++ [command] ++ payload ++ checksum) ∧
      ∀ f, encodeFrame cfg command payload = some f → f.length = length.toNat + 3)

/-- 41_frame_codec.md R125: the round trip, and the three facts the rule says it follows from. -/
def Obligations.EncodeThenDecodeGivesTheFrame : Prop :=
  ∀ (cfg : Config) (command : Byte) (payload : List Byte), cfg.legal = true → payload.length ≤ cfg.maxPayload →
    ∃ f, encodeFrame cfg command payload = some f ∧ delimited cfg f = true ∧
      spanCovered cfg f = command :: payload ∧ spanClaimed cfg f = compute cfg (command :: payload) ∧
      decodeSpan cfg f = .frame { command := command, payload := payload }

/-- 41_frame_codec.md section 4, corruption detection, with 40_checksum.md sections 3 and 5 (a), under the default CRC
sets: a change of one byte of an encoded frame, in the covered span or in the checksum field, makes `decode` fail. -/
def Obligations.CorruptByteIsDetected : Prop :=
  ∀ (cfg : Config) (command : Byte) (payload f : List Byte) (k : Nat) (b : Byte), cfg.legal = true →
    cfg.crc8 = CrcParams.crc8Default → cfg.crc16 = CrcParams.crc16Default →
    encodeFrame cfg command payload = some f → 3 ≤ k → k < f.length → f.getD k 0 ≠ b →
    decodeSpan cfg (f.set k b) = .checksumMismatch

/-! ### Encoding and decoding of instructions -/

/-- 30_encoding.md sections 3 and 4 and 95_test_vectors.md V10, V11, V12, V14, part 6: words written out. -/
def Obligations.WrittenWordsDecode : Prop :=
  let d := Config.default
  let d16 := { Config.default with ckAlg := CkAlg.crc16 }
  decode d (.op 0x1 [0x01, 0x03, 0x10, 0x20, 0x30]) = .instr (.send 0x01 [0x10, 0x20, 0x30]) ∧
  decode d (.op 0x2 [0xFF]) = .instr (.feedByte 0xFF) ∧ decode d (.op 0x3 []) = .instr .tick ∧
  decode d (.op 0x4 []) = .instr .abort ∧ decode d (.op 0x5 [0x00]) = .instr (.sendCtrl .ack) ∧
  decode d (.op 0x5 [0x01]) = .instr (.sendCtrl .nack) ∧
  decode d (.wire [0xAA, 0x55, 0x02, 0x06, 0x06]) = .instr (.frameAck 0x02 [] [0x06]) ∧
  decode d (.wire [0xAA, 0x55, 0x02, 0x15, 0x15]) = .instr (.frameNack 0x02 [] [0x15]) ∧
  decode d (.wire [0xAA, 0x55, 0x05, 0x01, 0x10, 0x20, 0x30, 0x01])
    = .instr (.frameOrdinary 0x05 0x01 [0x10, 0x20, 0x30] [0x01]) ∧
  decode d16 (.wire [0xAA, 0x55, 0x05, 0x42, 0xAA, 0x55, 0x47, 0xB4])
    = .instr (.frameOrdinary 0x05 0x42 [0xAA, 0x55] [0x47, 0xB4])

/-- 30_encoding.md sections 1 to 4: decoding the encoding of a well-formed instruction gives it back. The operand
layout of a request and the split of a frame into fields are the model's conventions (log 8, log 10). -/
def Obligations.DecodeOfEncode : Prop :=
  ∀ (cfg : Config) (i : Instr), cfg.legal = true → wellFormed cfg i = true → decode cfg (encode cfg i) = .instr i

/-- 30_encoding.md sections 1 to 4: no two packets decode to one instruction; what decodes is what is encoded. This rests
on the model's choices: surplus or missing operand bytes and a kind above 1 are refused (log 10), and a frame is split by
its length byte (log 8). -/
def Obligations.EncodeOfDecode : Prop :=
  ∀ (cfg : Config) (p : Packet) (i : Instr), decode cfg p = .instr i → encode cfg i = p

/-- 30_encoding.md sections 2, 4 and 41_frame_codec.md section 3: a frame instruction is well formed exactly when its
bytes are a frame the Frame Codec accepts (that well-formedness is where validity stands: log 8). -/
def Obligations.WellFormedFrameIsAcceptedFrame : Prop :=
  ∀ (cfg : Config) (bytes : List Byte) (i : Instr), cfg.legal = true → decode cfg (.wire bytes) = .instr i →
    (wellFormed cfg i = true ↔ ∃ f, decodeSpan cfg bytes = .frame f)

/-- The codes of 10_state.md sections 2 to 4 and 60_exceptions.md sections 1, 2: RX_STATE, RC_STATE, CK_ALG with its
reserved code 3, the conditions, and the events. The numbers are the spec's; that the status of `onSendResolved` fills one
byte, an event's kind one bit and a condition code three bits are the model's choices (log 21). -/
def Obligations.CodesOfStatesConditionsEvents : Prop :=
  [RxState.seekSync1, .seekSync2, .readLength, .readBody].map rxStateCode = [0, 1, 2, 3] ∧
  [RcState.idle, .sent].map rcStateCode = [0, 1] ∧
  [CkAlg.xor8, .crc8, .crc16].map CkAlg.code = [0, 1, 2] ∧ CkAlg.ofCode 3 = none ∧
  (∀ a : CkAlg, CkAlg.ofCode a.code = some a) ∧
  [Condition.syncLost, .lengthOverflow, .checksumMismatch, .payloadTooLarge, .linkBusy, .nackReceived,
    .retriesExhausted].map conditionCode = [1, 2, 3, 4, 5, 6, 7] ∧
  [SendResult.ok, .linkBusy, .payloadTooLarge].map sendResultCode = [0, 5, 4] ∧
  (∀ c p, eventKind (.frameDelivered c p) = 0 ∧
    eventFields (.frameDelivered c p) = c :: BitVec.ofNat 8 p.length :: p) ∧
  (∀ r, eventKind (.sendResolved r) = 1) ∧ eventFields (.sendResolved .ok) = [0] ∧
  eventFields (.sendResolved .retriesExhausted) = [7]

/-! ### The step -/

/-- 00_scope.md section 5, 20_memory.md section 6: a step takes the next input, samples its time, and runs the decoded
instruction. That the inputs stand in a list of the state is the model's choice (log 3). -/
def Obligations.StepRunsTheDecodedInstruction : Prop :=
  ∀ (s : State) (t : Nat) (p : Packet) (rest : List Input) (i : Instr), s.cfg.legal = true →
    s.inq = .perform t p :: rest → decode s.cfg p = .instr i → step s = exec i { s with inq := rest, portT := t }

/-- A word of the opcode table placed as the next input runs as its instruction on the state as it was (log 19). -/
def Obligations.FetchWordRunsAsItsInstruction : Prop :=
  ∀ (s : State) (nbits w : Nat) (i : Instr), s.cfg = Config.default → decodeTableWord nbits w = some i →
    step (s.withFetchWord nbits w) = exec i s

/-- 00_scope.md section 5, 70_reset_and_hazards.md section 1: the block acts only when the host performs an operation
(log 4). -/
def Obligations.StepWithoutInputWaits : Prop :=
  ∀ s : State, s.cfg.legal = true → s.inq = [] → step s = .next s

/-- 30_encoding.md section 5 and 93_implementation_defined.md U12: a reserved op code is refused, whatever its
operands. -/
def Obligations.ReservedOpcodeIsRefused : Prop :=
  ∀ (s : State) (t : Nat) (code : BitVec 4) (operands : List Byte) (rest : List Input), s.cfg.legal = true →
    s.inq = .perform t (.op code operands) :: rest → code = 0 ∨ 6 ≤ code.toNat →
    step s = .refused (.reservedOpcode code)

/-- 10_state.md section 4 and 93_implementation_defined.md U13: an instance with an illegal CFG has no behaviour. -/
def Obligations.IllegalConfigIsRefused : Prop :=
  ∀ s : State, s.cfg.legal = false → step s = .refused .illegalConfig ∧ ∀ i, exec i s = .refused .illegalConfig

/-- 20_memory.md section 1, 30_encoding.md section 5: bytes on the inbound stream are never refused; a packet of bytes
that is no frame runs as FEEDBYTE of each byte (log 9). -/
def Obligations.StrayBytesAreFed : Prop :=
  ∀ (s : State) (t : Nat) (bytes : List Byte) (rest : List Input) (e : DecodeError), s.cfg.legal = true →
    s.inq = .perform t (.wire bytes) :: rest → decode s.cfg (.wire bytes) = .rejected e →
    step s = execAll (feeds bytes) { s with inq := rest, portT := t }

/-- 10_state.md section 8, 70_reset_and_hazards.md section 1: what reset leaves, and RST from any state: every register
as after reset, CFG untouched, nothing emitted. The buffers hold no byte after it (log 1), and the ports and pending
inputs stand (log 16). -/
def Obligations.ResetLeavesTheResetValues : Prop :=
  (State.reset.rxState = .seekSync1 ∧ State.reset.rxLen = 0 ∧ State.reset.rxRemain = 0 ∧
    State.reset.rcState = .idle ∧ State.reset.ptFlen = 0 ∧ State.reset.ptRetries = 0 ∧
    State.reset.ptDeadline = 0 ∧ State.reset.tx = [] ∧ State.reset.ev = [] ∧ State.reset.res = [] ∧
    (∀ a, readByte State.reset.rxBuf a = none ∧ readByte State.reset.ptFrame a = none)) ∧
  ∀ (s : State) (rest : List Input), s.cfg.legal = true → s.inq = .rst :: rest →
    step s = .next { State.reset with
      cfg := s.cfg, portT := s.portT, inq := rest, res := s.res, tx := s.tx, ev := s.ev, trace := s.trace }

/-! ### Receiver Synchronizer -/

/-- 42_receiver_sync.md R143, with SEEK_SYNC1 (section 2) beside it: every other field is unchanged but the trace of
SyncLost (log 12). -/
def Obligations.SeekStatesFollowTheirRules : Prop :=
  ∀ (s : State) (b : Byte), s.cfg.legal = true →
    (s.rxState = .seekSync1 →
      (b = s.cfg.sync1 → exec (.feedByte b) s = .next { s with rxState := .seekSync2 }) ∧
      (b ≠ s.cfg.sync1 → exec (.feedByte b) s = .next { s with trace := s.trace ++ [.syncLost] })) ∧
    (s.rxState = .seekSync2 →
      (b = s.cfg.sync2 → exec (.feedByte b) s = .next { s with rxState := .readLength }) ∧
      (b ≠ s.cfg.sync2 → b = s.cfg.sync1 →
        exec (.feedByte b) s = .next { s with trace := s.trace ++ [.syncLost] } ∧
        execAll (feeds [b, s.cfg.sync2]) s
          = .next { s with rxState := .readLength, trace := s.trace ++ [.syncLost] }) ∧
      (b ≠ s.cfg.sync2 → b ≠ s.cfg.sync1 →
        exec (.feedByte b) s = .next { s with rxState := .seekSync1, trace := s.trace ++ [.syncLost] }))

/-- 42_receiver_sync.md section 2, state READ_LENGTH: a length in bounds is stored, any other is consumed and the frame
attempt dropped, whatever the byte (also SYNC1). -/
def Obligations.ReadLengthAcceptsExactlyTheLegalLengths : Prop :=
  ∀ (s : State) (b : Byte), s.cfg.legal = true → s.rxState = .readLength →
    (1 + s.cfg.ckSize ≤ b.toNat → b.toNat ≤ 1 + s.cfg.maxPayload + s.cfg.ckSize →
      exec (.feedByte b) s = .next { s with rxLen := b, rxRemain := b, rxState := .readBody }) ∧
    (b.toNat < 1 + s.cfg.ckSize ∨ 1 + s.cfg.maxPayload + s.cfg.ckSize < b.toNat →
      exec (.feedByte b) s = .next { s with rxState := .seekSync1, trace := s.trace ++ [.lengthOverflow] })

/-- 42_receiver_sync.md R145: the byte is stored at RX_LEN - RX_REMAIN, inside the buffer, whatever its value;
RX_REMAIN goes down by one; with the last byte VALIDATE follows in the same operation; the state has no timeout. -/
def Obligations.ReadBodyStoresEveryByte : Prop :=
  ∀ (s : State) (b : Byte), s.cfg.legal = true → RxInv s → s.rxState = .readBody →
    rxIndex s < s.cfg.maxBody ∧ rxIndex s ≤ s.rxLen.toNat - 1 ∧
    ∃ t : State,
      t = { s with rxBuf := t.rxBuf, rxRemain := t.rxRemain } ∧
      t.rxRemain.toNat = s.rxRemain.toNat - 1 ∧
      readByte t.rxBuf (s.rxLen.toNat - s.rxRemain.toNat) = some b ∧
      (∀ a, a ≠ s.rxLen.toNat - s.rxRemain.toNat → readByte t.rxBuf a = readByte s.rxBuf a) ∧
      (1 < s.rxRemain.toNat → exec (.feedByte b) s = .next t) ∧
      (s.rxRemain = 1 → exec (.feedByte b) s = validate t) ∧
      (∀ (time : Nat) (u : State), exec .tick { s with portT := time } = .next u → SameRx s u)

/-- 60_exceptions.md R215: the last body byte of a frame whose checksum does not validate. Nothing but the receiver's
registers (and the trace) changes, so nothing is emitted, and no NACK. -/
def Obligations.BadChecksumDropsTheFrame : Prop :=
  ∀ (s : State) (b : Byte) (body : List Byte), s.cfg.legal = true → RxInv s → s.rxState = .readBody →
    s.rxRemain = 1 → memRead s.rxBuf 0 (s.rxLen.toNat - 1) = some body →
    let span := s.cfg.sync1 :: s.cfg.sync2 :: s.rxLen :: (body ++ [b])
    compute s.cfg (spanCovered s.cfg span) ≠ spanClaimed s.cfg span →
    exec (.feedByte b) s = .next { s with
      rxState := .seekSync1, rxRemain := 0, rxBuf := writeByte s.rxBuf (s.rxLen.toNat - 1) b,
      trace := s.trace ++ [.checksumMismatch] }

/-- 42_receiver_sync.md section 2, step VALIDATE: with the last body byte of a frame that validates, the receiver is
back in SEEK_SYNC1 and the frame is handed on in the same operation, whatever RC_STATE is. -/
def Obligations.GoodChecksumHandsTheFrameOn : Prop :=
  ∀ (s : State) (b : Byte) (body : List Byte), s.cfg.legal = true → RxInv s → s.rxState = .readBody →
    s.rxRemain = 1 → memRead s.rxBuf 0 (s.rxLen.toNat - 1) = some body →
    let span := s.cfg.sync1 :: s.cfg.sync2 :: s.rxLen :: (body ++ [b])
    compute s.cfg (spanCovered s.cfg span) = spanClaimed s.cfg span →
    exec (.feedByte b) s
      = onFrame { command := (body ++ [b]).headD 0, payload := (body ++ [b]).tail.take (s.rxLen.toNat - 1 - s.cfg.ckSize) }
        { s with rxState := .seekSync1, rxRemain := 0, rxBuf := writeByte s.rxBuf (s.rxLen.toNat - 1) b }

/-- The frame of FEEDBYTE (42_receiver_sync.md section 1; 10_state.md sections 2, 3): it stores to RX_BUF only, in
READ_BODY only, at RX_LEN - RX_REMAIN only; it changes neither PT_FRAME nor PT_FLEN, drives nothing on RES, never enters
SENT, and changes PT_RETRIES and PT_DEADLINE only where it retries. -/
def Obligations.FeedByteFrame : Prop :=
  ∀ (s t : State) (b : Byte), exec (.feedByte b) s = .next t →
    SameInputs s t ∧ t.res = s.res ∧ t.ptFrame = s.ptFrame ∧ t.ptFlen = s.ptFlen ∧
    (∀ a, ¬ (s.rxState = .readBody ∧ a = s.rxLen.toNat - s.rxRemain.toNat) →
      readByte t.rxBuf a = readByte s.rxBuf a) ∧
    (s.rxState ≠ .readLength → t.rxLen = s.rxLen) ∧
    (s.rxState ≠ .readLength → s.rxState ≠ .readBody → t.rxRemain = s.rxRemain) ∧
    (t.rcState = s.rcState ∨ t.rcState = .idle) ∧
    (t.tx = s.tx → t.ptRetries = s.ptRetries ∧ t.ptDeadline = s.ptDeadline) ∧
    (s.rcState = .idle → t.rcState = .idle ∧ t.ptRetries = s.ptRetries ∧ t.ptDeadline = s.ptDeadline)

/-- 60_exceptions.md section 3: the outputs and conditions of one FEEDBYTE, TICK and SEND. -/
def Obligations.OutputsOfOneOperation : Prop :=
  (∀ (s t : State) (b : Byte), exec (.feedByte b) s = .next t →
    ∃ (frames : List (List Byte)) (events : List Event) (conds : List Condition),
      t.tx = s.tx ++ frames ∧ frames.length ≤ 1 ∧ t.ev = s.ev ++ events ∧ events.length ≤ 1 ∧
      t.trace = s.trace ++ conds ∧ conds.countP receiverCondition ≤ 1 ∧
      (conds.any receiverCondition = true → conds.length = 1 ∧ frames = [] ∧ events = [])) ∧
  (∀ s t : State, exec .tick s = .next t →
    ∃ (frames : List (List Byte)) (events : List Event),
      t.tx = s.tx ++ frames ∧ t.ev = s.ev ++ events ∧ t.res = s.res ∧ frames.length + events.length ≤ 1) ∧
  (∀ (s t : State) (c : Byte) (p : List Byte), exec (.send c p) s = .next t →
    ∃ r, t.res = s.res ++ [r] ∧ t.ev = s.ev ∧
      (r = .ok → ∃ f, t.tx = s.tx ++ [f]) ∧ (r ≠ .ok → t.tx = s.tx))

/-- 42_receiver_sync.md section 3, the resynchronisation property: from SEEK_SYNC1, or from SEEK_SYNC2 when the marker
bytes differ, feeding an encoded frame emits nothing before its last byte, and then does exactly what `onFrame` does with
the frame, in SEEK_SYNC1. -/
def Obligations.EncodedFrameIsReceived : Prop :=
  ∀ (s : State) (command : Byte) (payload : List Byte), s.cfg.legal = true → payload.length ≤ s.cfg.maxPayload →
    s.rxState = .seekSync1 ∨ (s.rxState = .seekSync2 ∧ s.cfg.sync1 ≠ s.cfg.sync2) →
    let f := frameBytes s.cfg command payload
    (∀ n, n < f.length → ∃ u, execAll (feeds (f.take n)) s = .next u ∧ SamePt s u ∧ u.tx = s.tx ∧ u.ev = s.ev) ∧
    ∃ r : State, r = { s with rxState := .seekSync1, rxLen := r.rxLen, rxRemain := 0, rxBuf := r.rxBuf, trace := r.trace } ∧
      execAll (feeds f) s = onFrame { command := command, payload := payload } r

/-- 42_receiver_sync.md section 3: garbage without SYNC1 immediately followed by SYNC2 is absorbed, and leaves the
receiver where the next frame is found. -/
def Obligations.GarbageWithoutMarkerIsAbsorbed : Prop :=
  ∀ (s : State) (g : List Byte), s.cfg.legal = true → s.cfg.sync1 ≠ s.cfg.sync2 → s.rxState = .seekSync1 →
    ¬ [s.cfg.sync1, s.cfg.sync2] <:+: g →
    ∃ u : State, execAll (feeds g) s = .next u ∧ u = { s with rxState := u.rxState, trace := u.trace } ∧
      (u.rxState = .seekSync1 ∨ u.rxState = .seekSync2)

/-! ### Frames as instructions -/

/-- 30_encoding.md section 6: a frame arriving whole is FEEDBYTE of each of its bytes (log 7). -/
def Obligations.FrameIsFeedOfItsBytes : Prop :=
  ∀ (s : State) (l c : Byte) (p ck : List Byte),
    exec (.frameAck l p ck) s = execAll (feeds (wireBytes s.cfg l s.cfg.ackCmd p ck)) s ∧
    exec (.frameNack l p ck) s = execAll (feeds (wireBytes s.cfg l s.cfg.nackCmd p ck)) s ∧
    exec (.frameOrdinary l c p ck) s = execAll (feeds (wireBytes s.cfg l c p ck)) s

/-- 43_reliability.md section 3, the ACK arm: a valid ACK frame in a receiver hunting for a marker completes; its body is
in RX_BUF; a pending transmission is resolved as Ok, and nothing else happens when none is pending. -/
def Obligations.AckFrameCompletes : Prop :=
  ∀ (s : State) (l : Byte) (p ck : List Byte), s.cfg.legal = true → s.rxState = .seekSync1 →
    wellFormed s.cfg (.frameAck l p ck) = true →
    ∃ r : State, r = { s with rxLen := l, rxRemain := 0, rxBuf := r.rxBuf } ∧
      memRead r.rxBuf 0 l.toNat = some (s.cfg.ackCmd :: (p ++ ck)) ∧
      (∀ a, l.toNat ≤ a → readByte r.rxBuf a = readByte s.rxBuf a) ∧
      (s.rcState = .sent →
        exec (.frameAck l p ck) s = .next { r with rcState := .idle, ev := s.ev ++ [.sendResolved .ok] }) ∧
      (s.rcState = .idle → exec (.frameAck l p ck) s = .next r)

/-- 43_reliability.md section 3, the NACK arm and the retry action: a valid NACK frame in a receiver hunting for a marker
completes; a pending transmission is retried at once whatever its deadline, or reported as exhausted; nothing else
happens when none is pending. -/
def Obligations.NackFrameCompletes : Prop :=
  ∀ (s : State) (l : Byte) (p ck : List Byte), s.cfg.legal = true → s.rxState = .seekSync1 →
    wellFormed s.cfg (.frameNack l p ck) = true →
    ∃ r : State, r = { s with rxLen := l, rxRemain := 0, rxBuf := r.rxBuf } ∧
      memRead r.rxBuf 0 l.toNat = some (s.cfg.nackCmd :: (p ++ ck)) ∧
      (∀ a, l.toNat ≤ a → readByte r.rxBuf a = readByte s.rxBuf a) ∧
      (s.rcState = .sent → s.ptRetries ≠ 0 → ∀ f, memRead s.ptFrame 0 s.ptFlen.toNat = some f →
        exec (.frameNack l p ck) s = .next { r with
          tx := s.tx ++ [f], ptRetries := s.ptRetries - 1,
          ptDeadline := (s.portT % 2 ^ s.cfg.wTime + s.cfg.timeout) % 2 ^ s.cfg.wTime,
          trace := s.trace ++ [.nackReceived] }) ∧
      (s.rcState = .sent → s.ptRetries = 0 →
        exec (.frameNack l p ck) s = .next { r with
          rcState := .idle, ev := s.ev ++ [.sendResolved .retriesExhausted],
          trace := s.trace ++ [.nackReceived, .retriesExhausted] }) ∧
      (s.rcState = .idle → exec (.frameNack l p ck) s = .next r)

/-- 43_reliability.md section 3, the ordinary arm: a valid ordinary frame in a receiver hunting for a marker completes;
it is delivered, after an ACK frame where AUTO_ACK is set, and leaves the pending transmission alone. -/
def Obligations.OrdinaryFrameCompletes : Prop :=
  ∀ (s : State) (l c : Byte) (p ck : List Byte), s.cfg.legal = true → s.rxState = .seekSync1 →
    wellFormed s.cfg (.frameOrdinary l c p ck) = true →
    ∃ r : State, r = { s with rxLen := l, rxRemain := 0, rxBuf := r.rxBuf } ∧
      memRead r.rxBuf 0 l.toNat = some (c :: (p ++ ck)) ∧
      (∀ a, l.toNat ≤ a → readByte r.rxBuf a = readByte s.rxBuf a) ∧
      exec (.frameOrdinary l c p ck) s = .next { r with
        tx := if s.cfg.autoAck = true then s.tx ++ [frameBytes s.cfg s.cfg.ackCmd []] else s.tx,
        ev := s.ev ++ [.frameDelivered c p] }

/-- 30_encoding.md section 5: a frame of any class whose checksum field is wrong is dropped at its last byte; one whose
length byte is out of bounds is dropped at that byte, and the bytes after it are hunted for a marker. -/
def Obligations.InvalidFrameIsDropped : Prop :=
  ∀ (s : State) (l c : Byte) (p ck : List Byte), s.cfg.legal = true → s.rxState = .seekSync1 →
    (lengthOk s.cfg l p = true → ck.length = s.cfg.ckSize → checksumOk s.cfg c p ck = false →
      ∃ r : State, r = { s with rxLen := l, rxRemain := 0, rxBuf := r.rxBuf } ∧
        memRead r.rxBuf 0 l.toNat = some (c :: (p ++ ck)) ∧
        execAll (feeds (wireBytes s.cfg l c p ck)) s
          = .next { r with trace := s.trace ++ [.checksumMismatch] }) ∧
    (l.toNat < s.cfg.minBody ∨ s.cfg.maxBody < l.toNat →
      execAll (feeds (wireBytes s.cfg l c p ck)) s
        = execAll (feeds (c :: (p ++ ck))) { s with trace := s.trace ++ [.lengthOverflow] })

/-- The frame of the frame instructions in any state of the receiver, valid or not (42_receiver_sync.md section 1): they
store to RX_BUF only, below MAX_BODY; they change neither PT_FRAME nor PT_FLEN, drive nothing on RES and never enter
SENT. -/
def Obligations.FrameInstructionsFrame : Prop :=
  ∀ (s t : State) (i : Instr),
    (∃ l p ck, i = .frameAck l p ck) ∨ (∃ l p ck, i = .frameNack l p ck) ∨ (∃ l c p ck, i = .frameOrdinary l c p ck) →
    exec i s = .next t →
    SameInputs s t ∧ t.res = s.res ∧ t.ptFrame = s.ptFrame ∧ t.ptFlen = s.ptFlen ∧
    (∀ a, s.cfg.maxBody ≤ a → readByte t.rxBuf a = readByte s.rxBuf a) ∧
    (t.rcState = s.rcState ∨ t.rcState = .idle) ∧
    (s.rcState = .idle → SamePt s t)

/-! ### Reliability Controller -/

/-- 43_reliability.md R172, with 60_exceptions.md R216 and R217: the three outcomes of SEND, for every command and
payload. -/
def Obligations.SendFollowsItsRule : Prop :=
  ∀ (s : State) (c : Byte) (p : List Byte), s.cfg.legal = true →
    (s.rcState = .sent →
      exec (.send c p) s = .next { s with res := s.res ++ [.linkBusy], trace := s.trace ++ [.linkBusy] }) ∧
    (s.rcState = .idle → s.cfg.maxPayload < p.length →
      exec (.send c p) s = .next { s with
        res := s.res ++ [.payloadTooLarge], trace := s.trace ++ [.payloadTooLarge] }) ∧
    (s.rcState = .idle → p.length ≤ s.cfg.maxPayload →
      ∃ (f : List Byte) (t : State), encodeFrame s.cfg c p = some f ∧ exec (.send c p) s = .next t ∧
        t = { s with
          res := s.res ++ [.ok], tx := s.tx ++ [f], ptFrame := t.ptFrame, ptFlen := t.ptFlen,
          ptRetries := s.cfg.maxRetries,
          ptDeadline := (s.portT % 2 ^ s.cfg.wTime + s.cfg.timeout) % 2 ^ s.cfg.wTime, rcState := .sent } ∧
        t.ptFlen.toNat = f.length ∧ memRead t.ptFrame 0 f.length = some f ∧
        (∀ a, f.length ≤ a → readByte t.ptFrame a = readByte s.ptFrame a))

/-- 43_reliability.md R175: what `onFrame` does with an ACK frame, whatever its payload. -/
def Obligations.AckArmResolvesThePendingSend : Prop :=
  ∀ (s : State) (p : List Byte),
    (s.rcState = .sent → onFrame { command := s.cfg.ackCmd, payload := p } s
      = .next { s with rcState := .idle, ev := s.ev ++ [.sendResolved .ok] }) ∧
    (s.rcState = .idle → onFrame { command := s.cfg.ackCmd, payload := p } s = .next s)

/-- 43_reliability.md R178: what `onFrame` does with an ordinary frame: the ACK frame first where AUTO_ACK is set, one
event, and no register changed. -/
def Obligations.OrdinaryArmDeliversTheFrame : Prop :=
  ∀ (s : State) (c : Byte) (p : List Byte), c ≠ s.cfg.ackCmd → c ≠ s.cfg.nackCmd →
    onFrame { command := c, payload := p } s = .next { s with
      tx := if s.cfg.autoAck = true then s.tx ++ [frameBytes s.cfg s.cfg.ackCmd []] else s.tx,
      ev := s.ev ++ [.frameDelivered c p] }

/-- 43_reliability.md R180: the outcomes of TICK, with `expired` of section 1. -/
def Obligations.TickFollowsItsRule : Prop :=
  (∀ (cfg : Config) (d : Nat), expired cfg d d = true) ∧
  ∀ s : State, s.cfg.legal = true →
    let n := s.portT % 2 ^ s.cfg.wTime
    (s.rcState = .idle → exec .tick s = .next s) ∧
    (s.rcState = .sent → expired s.cfg n s.ptDeadline = false → exec .tick s = .next s) ∧
    (s.rcState = .sent → expired s.cfg n s.ptDeadline = true → s.ptRetries ≠ 0 →
      ∀ f, memRead s.ptFrame 0 s.ptFlen.toNat = some f →
        exec .tick s = .next { s with
          tx := s.tx ++ [f], ptRetries := s.ptRetries - 1,
          ptDeadline := (n + s.cfg.timeout) % 2 ^ s.cfg.wTime }) ∧
    (s.rcState = .sent → expired s.cfg n s.ptDeadline = true → s.ptRetries = 0 →
      exec .tick s = .next { s with
        rcState := .idle, ev := s.ev ++ [.sendResolved .retriesExhausted], trace := s.trace ++ [.retriesExhausted] })

/-- 43_reliability.md section 1: under the host's duties the wrap-safe test is the plain comparison. `N` and `D` are
times that have not wrapped. -/
def Obligations.ExpiredIsThePlainComparison : Prop :=
  ∀ (cfg : Config) (N D : Nat), cfg.legal = true →
    N < D + 2 ^ (cfg.wTime - 1) → D < N + 2 ^ (cfg.wTime - 1) →
    (expired cfg (N % 2 ^ cfg.wTime) (D % 2 ^ cfg.wTime) = true ↔ D ≤ N)

/-- 43_reliability.md section 4: a TICK repeated at the same time after one that retried does nothing. -/
def Obligations.OneTickRetriesOnce : Prop :=
  ∀ s t : State, s.cfg.legal = true → s.rcState = .sent → s.ptRetries ≠ 0 → exec .tick s = .next t →
    t.tx ≠ s.tx → exec .tick t = .next t

/-- 43_reliability.md R184. -/
def Obligations.AbortClearsThePendingSendOnly : Prop :=
  encode Config.default .abort = .op 0x4 [] ∧
  ∀ s : State, s.cfg.legal = true →
    exec .abort s = .next { s with rcState := .idle } ∧ (s.rcState = .idle → exec .abort s = .next s) ∧
    ∀ (t : State) (c : Byte) (p : List Byte), exec .abort s = .next t → p.length ≤ s.cfg.maxPayload →
      ∃ u, exec (.send c p) t = .next u ∧ u.res = s.res ++ [.ok]

/-- 43_reliability.md section 5: SENDCTRL emits one control frame with an empty payload and changes nothing else. -/
def Obligations.SendCtrlEmitsAControlFrame : Prop :=
  ∀ s : State, s.cfg.legal = true →
    (∃ f, encodeFrame s.cfg s.cfg.ackCmd [] = some f ∧ exec (.sendCtrl .ack) s = .next { s with tx := s.tx ++ [f] }) ∧
    (∃ f, encodeFrame s.cfg s.cfg.nackCmd [] = some f ∧ exec (.sendCtrl .nack) s = .next { s with tx := s.tx ++ [f] })

/-- The frame of SEND, TICK, ABORT and SENDCTRL (43_reliability.md sections 2, 4, 5; 10_state.md section 2): none
touches the receiver; TICK, ABORT and SENDCTRL store to neither buffer and drive nothing on RES; SEND stores the bytes of
the encoded frame from index 0 of PT_FRAME where it returns Ok, and nothing otherwise. -/
def Obligations.ControllerOperationsFrame : Prop :=
  ∀ (s t : State) (i : Instr), exec i s = .next t →
    (∀ c p, i = .send c p →
      SameRx s t ∧ SameInputs s t ∧ t.ev = s.ev ∧ (s.rcState = .sent → SamePt s t) ∧
      (∀ a, ¬ (s.rcState = .idle ∧ p.length ≤ s.cfg.maxPayload ∧ a < 4 + p.length + s.cfg.ckSize) →
        readByte t.ptFrame a = readByte s.ptFrame a)) ∧
    (i = .tick ∨ i = .abort ∨ (∃ k, i = .sendCtrl k) →
      SameRx s t ∧ SameInputs s t ∧ t.res = s.res ∧ t.ptFrame = s.ptFrame ∧ t.ptFlen = s.ptFlen) ∧
    (i = .abort → t.tx = s.tx ∧ t.ev = s.ev ∧ t.ptRetries = s.ptRetries ∧ t.ptDeadline = s.ptDeadline) ∧
    ((∃ k, i = .sendCtrl k) → SamePt s t ∧ t.ev = s.ev)

/-! ### Whole-machine properties -/

/-- The invariant of 10_state.md sections 2 and 3 (R25, R27 to R30) with the buffers of 20_memory.md section 1 in
canonical form and inside their capacity holds at reset, and the block is quiescent (70_reset_and_hazards.md section 2). -/
def Obligations.ResetMeetsTheInvariant : Prop := Inv State.reset ∧ Quiescent State.reset

/-- The same invariant is kept by every step. -/
def Obligations.StepKeepsTheInvariant : Prop := ∀ s t : State, Inv s → step s = .next t → Inv t

/-- 42_receiver_sync.md sections 1, 3 and 00_scope.md section 5: in a state that meets the invariant every instruction
completes; no fault and no refusal is left. -/
def Obligations.EveryInstructionCompletes : Prop := ∀ (s : State) (i : Instr), Inv s → ∃ t, exec i s = .next t

/-- 10_state.md sections 4 and 7, 20_memory.md section 6: no step changes CFG, and the outputs are append-only. The sections
say append-only of TX and EV; that RES too is held as a list of all it has carried is the model's choice (log 11). -/
def Obligations.ConfigFixedAndOutputsAppendOnly : Prop :=
  ∀ s t : State, step s = .next t → t.cfg = s.cfg ∧ s.res <+: t.res ∧ s.tx <+: t.tx ∧ s.ev <+: t.ev

/-- 20_memory.md section 1: whatever a step hands to the transport is a sequence of whole encoded frames. -/
def Obligations.EveryEmittedFrameIsEncoded : Prop :=
  ∀ s t : State, Inv s → step s = .next t → ∀ f ∈ t.tx.drop s.tx.length,
    ∃ c p, encodeFrame s.cfg c p = some f

/-- 30_encoding.md section 5, 41_frame_codec.md section 1: a control frame is never delivered, and a delivered payload
is within its bound. -/
def Obligations.DeliveredFramesAreOrdinary : Prop :=
  ∀ (s t : State) (c : Byte) (p : List Byte), step s = .next t →
    .frameDelivered c p ∈ t.ev.drop s.ev.length →
    c ≠ s.cfg.ackCmd ∧ c ≠ s.cfg.nackCmd ∧ p.length ≤ s.cfg.maxPayload

/-- 43_reliability.md section 6 (c): `onSendResolved` is emitted exactly in a SENT to IDLE transition, once, by every
instruction but ABORT, which emits none. -/
def Obligations.ResolvedExactlyOnLeavingSent : Prop :=
  ∀ (s t : State) (i : Instr), exec i s = .next t →
    (i = .abort → resolvedCount t.ev = resolvedCount s.ev) ∧
    (i ≠ .abort → resolvedCount t.ev
      = resolvedCount s.ev + (if s.rcState = .sent ∧ t.rcState = .idle then 1 else 0))

/-- 43_reliability.md section 6 (a), (b): only a SEND that returns Ok enters SENT, and it does so from IDLE only. -/
def Obligations.OnlyAnAcceptedSendEntersSent : Prop :=
  ∀ (s t : State) (i : Instr), exec i s = .next t →
    (s.rcState = .idle → t.rcState = .sent → (∃ c p, i = .send c p) ∧ t.res = s.res ++ [.ok]) ∧
    (∀ c p, i = .send c p → t.res = s.res ++ [.ok] → s.rcState = .idle ∧ t.rcState = .sent)

/-- 43_reliability.md section 4, retry exhaustion: after an accepted SEND, TICKs alone, at times that keep the host's
duties of section 1 (never backwards, no gap above 2^(W_TIME-1) - TIMEOUT), retransmit at most MAX_RETRIES times, the k-th
retransmission not before k timeouts have passed; the failure is reported once, after all retries, not before
MAX_RETRIES + 1 timeouts have passed. Times are counted without wrap. -/
def Obligations.RetryExhaustionBound : Prop :=
  ∀ (s u : State) (c : Byte) (p : List Byte) (times : List Nat), Inv s → s.rcState = .idle →
    p.length ≤ s.cfg.maxPayload → exec (.send c p) s = .next u →
    List.IsChain (fun a b => a ≤ b ∧ b - a ≤ 2 ^ (s.cfg.wTime - 1) - s.cfg.timeout) (s.portT :: times) →
    ∃ (t : State) (k : Nat), ticksAt times u = .next t ∧ k ≤ s.cfg.maxRetries.toNat ∧
      t.tx = s.tx ++ List.replicate (1 + k) (frameBytes s.cfg c p) ∧
      (∀ j, 1 ≤ j → j ≤ k → ∃ T ∈ times, s.portT + j * s.cfg.timeout ≤ T) ∧
      (t.rcState = .sent → t.ptRetries.toNat + k = s.cfg.maxRetries.toNat ∧ t.ev = s.ev) ∧
      (t.rcState = .idle → k = s.cfg.maxRetries.toNat ∧ t.ev = s.ev ++ [.sendResolved .retriesExhausted] ∧
        ∃ T ∈ times, s.portT + (s.cfg.maxRetries.toNat + 1) * s.cfg.timeout ≤ T)

/-- 60_exceptions.md section 1: nothing the host can see depends on the trace of conditions (the model's own field,
log 12). -/
def Obligations.TraceIsInvisible : Prop :=
  ∀ (s t : State) (i : Instr) (tr : List Condition), exec i s = .next t →
    ∃ tr', exec i { s with trace := tr } = .next { t with trace := tr' }

/-- 20_memory.md section 6, 60_exceptions.md section 3: a byte that completes no frame and an operation of the
controller give the same state in either order, up to the order of the trace. -/
def Obligations.BytesAndControllerOperationsCommute : Prop :=
  ∀ (s t : State) (b : Byte) (i : Instr), ¬ (s.rxState = .readBody ∧ s.rxRemain = 1) →
    (∃ c p, i = .send c p) ∨ i = .tick ∨ i = .abort ∨ (∃ k, i = .sendCtrl k) →
    execAll [.feedByte b, i] s = .next t →
    ∃ tr', execAll [i, .feedByte b] s = .next { t with trace := tr' }

/-- 00_scope.md sections 1 and 2, 10_state.md section 4, 60_exceptions.md section 7: two instances that hold the same
marker, checksum policy and control commands. What `a` sends with an ordinary command, fed to `b` while it hunts for a
marker, is delivered there as it was handed to SEND; the ACK `b` then sends, fed to `a`, resolves the send as Ok. -/
def Obligations.OneExchangeDeliversAndAcknowledges : Prop :=
  ∀ (a b : State) (c : Byte) (p : List Byte), a.cfg.legal = true → b.cfg.legal = true →
    (b.cfg.sync1 = a.cfg.sync1 ∧ b.cfg.sync2 = a.cfg.sync2 ∧ b.cfg.ckAlg = a.cfg.ckAlg ∧ b.cfg.crc8 = a.cfg.crc8 ∧
      b.cfg.crc16 = a.cfg.crc16 ∧ b.cfg.ackCmd = a.cfg.ackCmd ∧ b.cfg.nackCmd = a.cfg.nackCmd) →
    c ≠ a.cfg.ackCmd → c ≠ a.cfg.nackCmd → p.length ≤ a.cfg.maxPayload → p.length ≤ b.cfg.maxPayload →
    a.rcState = .idle → a.rxState = .seekSync1 → b.rxState = .seekSync1 →
    ∃ (a' b' b'' a'' : State) (f g : List Byte),
      exec (.send c p) a = .next a' ∧ a'.tx = a.tx ++ [f] ∧
      execAll (feeds f) b = .next b' ∧ b'.ev = b.ev ++ [.frameDelivered c p] ∧ b'.rcState = b.rcState ∧
      exec (.sendCtrl .ack) b' = .next b'' ∧ b''.tx = b'.tx ++ [g] ∧
      execAll (feeds g) a' = .next a'' ∧ a''.ev = a.ev ++ [.sendResolved .ok] ∧ a''.rcState = .idle
end

