-- ==== Sys2Proof/Laws/Checksum.lean ====
section
/-! SUPPORT. Laws of the Checksum Engine and the sizes of encoded frames. -/

namespace Sys2Proof.Machine

theorem crc_snoc_state {w : Nat} (P : CrcParams w) (bs : List Byte) (b : Byte) (r : BitVec w) :
    (bs ++ [b]).foldl (crcByte P) r = crcByte P (bs.foldl (crcByte P) r) b := by simp

@[simp] theorem checksumBytes_length (cfg : Config) (v : BitVec 16) : (checksumBytes cfg v).length = cfg.ckSize := by
  unfold checksumBytes Config.ckSize CkAlg.size
  cases cfg.ckAlg <;> rfl

theorem ckSize_pos (cfg : Config) : 1 ≤ cfg.ckSize := by
  unfold Config.ckSize CkAlg.size; cases cfg.ckAlg <;> simp

theorem ckSize_le (cfg : Config) : cfg.ckSize ≤ 2 := by
  unfold Config.ckSize CkAlg.size; cases cfg.ckAlg <;> simp

@[simp] theorem wireBytes_length (cfg : Config) (l c : Byte) (p ck : List Byte) :
    (wireBytes cfg l c p ck).length = 4 + (p.length + ck.length) := by
  simp only [wireBytes, List.length_cons, List.length_append]; omega

@[simp] theorem frameBytes_length (cfg : Config) (c : Byte) (p : List Byte) :
    (frameBytes cfg c p).length = 4 + (p.length + cfg.ckSize) := by simp [frameBytes]

theorem encodeFrame_of_le {cfg : Config} (c : Byte) {p : List Byte} (h : p.length ≤ cfg.maxPayload) :
    encodeFrame cfg c p = some (frameBytes cfg c p) := if_neg (by omega)

theorem encodeFrame_of_gt {cfg : Config} (c : Byte) {p : List Byte} (h : cfg.maxPayload < p.length) :
    encodeFrame cfg c p = none := if_pos h

/-- The constraints of a legal CFG, one by one. -/
theorem legal_iff (cfg : Config) :
    cfg.legal = true ↔ cfg.maxPayload + cfg.ckSize ≤ 254 ∧ 1 ≤ cfg.timeout ∧ cfg.timeout < 2 ^ (cfg.wTime - 1) ∧
      cfg.ackCmd ≠ cfg.nackCmd ∧ 2 ≤ cfg.wTime := by
  simp [Config.legal, and_assoc]

/-- MAX_BODY fits the length byte (R33). -/
theorem maxBody_le {cfg : Config} (h : cfg.legal = true) : cfg.maxBody ≤ 255 := by
  have := ((legal_iff cfg).1 h).1
  unfold Config.maxBody; omega

/-- The length byte of an encoded frame is not truncated (R121). -/
theorem lengthByte_toNat {cfg : Config} {p : List Byte} (h : cfg.legal = true) (hp : p.length ≤ cfg.maxPayload) :
    (BitVec.ofNat 8 (1 + p.length + cfg.ckSize)).toNat = 1 + p.length + cfg.ckSize := by
  have := ((legal_iff cfg).1 h).1
  rw [BitVec.toNat_ofNat]; omega

end Sys2Proof.Machine
end

