-- ==== Sys2Proof/Laws/Memory.lean ====
section
/-! SUPPORT. The laws of the byte buffers: reading after writing, and that every operation keeps the canonical form and
the capacity. -/

namespace Sys2Proof.Machine

@[simp] theorem readByte_nil (a : Nat) : readByte [] a = none := rfl

theorem readByte_writeByte_same (m : Memory) (a : Nat) (b : Byte) : readByte (writeByte m a b) a = some b := by
  induction m with
  | nil => simp [writeByte, readByte]
  | cons x m ih =>
    obtain ⟨k, v⟩ := x
    simp only [writeByte]
    split
    · simp [readByte]
    · split
      · simp [readByte]
      · have : k ≠ a := fun h => by simp_all
        simp [readByte, this, ih]

theorem readByte_writeByte_other (m : Memory) {a a' : Nat} (b : Byte) (h : a' ≠ a) :
    readByte (writeByte m a b) a' = readByte m a' := by
  induction m with
  | nil => simp [writeByte, readByte, Ne.symm h]
  | cons x m ih =>
    obtain ⟨k, v⟩ := x
    simp only [writeByte]
    split
    · simp [readByte, Ne.symm h]
    · split
      · next hk => subst hk; simp [readByte, Ne.symm h]
      · simp only [readByte, ih]

theorem mem_writeByte {m : Memory} {a : Nat} {b : Byte} {x : Host.Cell} (h : x ∈ writeByte m a b) :
    x = (a, b) ∨ x ∈ m := by
  induction m with
  | nil => simpa [writeByte] using h
  | cons y m ih =>
    obtain ⟨k, v⟩ := y
    simp only [writeByte] at h
    split at h
    · simpa using h
    · split at h
      · rcases List.mem_cons.1 h with h | h
        · exact .inl h
        · exact .inr (List.mem_cons_of_mem _ h)
      · rcases List.mem_cons.1 h with h | h
        · exact .inr (h ▸ List.mem_cons_self)
        · exact (ih h).imp_right (List.mem_cons_of_mem _)

theorem writeByte_wf {m : Memory} (a : Nat) (b : Byte) (h : Memory.wf m) : Memory.wf (writeByte m a b) := by
  induction m with
  | nil => simp [writeByte]
  | cons y m ih =>
    obtain ⟨k, v⟩ := y
    obtain ⟨hk, hm⟩ := List.pairwise_cons.1 h
    simp only [writeByte]
    split
    · next hlt =>
      refine List.pairwise_cons.2 ⟨fun x hx => ?_, h⟩
      rcases List.mem_cons.1 hx with rfl | hx
      · exact hlt
      · exact lt_trans hlt (hk x hx)
    · split
      · next heq => subst heq; exact List.pairwise_cons.2 ⟨hk, hm⟩
      · refine List.pairwise_cons.2 ⟨fun x hx => ?_, ih hm⟩
        rcases mem_writeByte hx with rfl | hx
        · show k < a; omega
        · exact hk x hx

theorem writeSpan_wf {m : Memory} (i : Nat) (bs : List Byte) (h : Memory.wf m) : Memory.wf (writeSpan m i bs) := by
  induction bs generalizing m i with
  | nil => exact h
  | cons b bs ih => exact ih (i + 1) (writeByte_wf i b h)

theorem memWrite_wf {cap : Nat} {m m' : Memory} {i : Nat} {bs : List Byte} (h : Memory.wf m)
    (hw : memWrite cap m i bs = some m') : Memory.wf m' := by
  unfold memWrite at hw
  split at hw
  · cases hw; exact writeSpan_wf i bs h
  · cases hw

theorem mem_writeSpan {m : Memory} {i : Nat} {bs : List Byte} {x : Host.Cell} (h : x ∈ writeSpan m i bs) :
    x ∈ m ∨ (i ≤ x.1 ∧ x.1 < i + bs.length) := by
  induction bs generalizing m i with
  | nil => exact .inl h
  | cons b bs ih =>
    rcases ih h with h | h
    · rcases mem_writeByte h with rfl | h
      · exact .inr ⟨le_refl _, by simp⟩
      · exact .inl h
    · exact .inr ⟨by omega, by simp only [List.length_cons]; omega⟩

/-- A store inside the capacity keeps every entry inside it. -/
theorem memWrite_bound {cap : Nat} {m m' : Memory} {i : Nat} {bs : List Byte} (h : ∀ x ∈ m, x.1 < cap)
    (hw : memWrite cap m i bs = some m') : ∀ x ∈ m', x.1 < cap := by
  unfold memWrite at hw
  split at hw
  · next hc =>
    cases hw
    intro x hx
    rcases mem_writeSpan hx with hx | ⟨_, hx⟩
    · exact h x hx
    · omega
  · cases hw

theorem memWrite_of_le {cap : Nat} (m : Memory) {i : Nat} {bs : List Byte} (h : i + bs.length ≤ cap) :
    memWrite cap m i bs = some (writeSpan m i bs) := if_pos h

@[simp] theorem writeSpan_nil (m : Memory) (i : Nat) : writeSpan m i [] = m := rfl

theorem readByte_writeSpan_outside (m : Memory) {i a : Nat} {bs : List Byte} (h : a < i ∨ i + bs.length ≤ a) :
    readByte (writeSpan m i bs) a = readByte m a := by
  induction bs generalizing m i with
  | nil => rfl
  | cons b bs ih =>
    simp only [List.length_cons] at h
    show readByte (writeSpan (writeByte m i b) (i + 1) bs) a = _
    rw [ih (writeByte m i b) (by omega), readByte_writeByte_other m b (by omega)]

theorem memRead_succ (m : Memory) (i n : Nat) :
    memRead m i (n + 1) = (readByte m i).bind fun b => (memRead m (i + 1) n).map (b :: ·) := by
  simp only [memRead]
  cases readByte m i <;> cases memRead m (i + 1) n <;> rfl

theorem memRead_length {m : Memory} {i n : Nat} {bs : List Byte} (h : memRead m i n = some bs) : bs.length = n := by
  induction n generalizing i bs with
  | zero => cases h; rfl
  | succ n ih =>
    rw [memRead_succ] at h
    simp only [Option.bind_eq_some_iff, Option.map_eq_some_iff] at h
    obtain ⟨b, -, bs', h', rfl⟩ := h
    simp [ih h']

/-- A read depends only on the bytes it covers. -/
theorem memRead_congr {m m' : Memory} {i n : Nat} (h : ∀ a, i ≤ a → a < i + n → readByte m a = readByte m' a) :
    memRead m i n = memRead m' i n := by
  induction n generalizing i with
  | zero => rfl
  | succ n ih =>
    rw [memRead_succ, memRead_succ, h i (le_refl _) (by omega), ih fun a h1 h2 => h a (by omega) (by omega)]

/-- Reading a span back gives the bytes stored. -/
theorem memRead_writeSpan_same (m : Memory) (i : Nat) (bs : List Byte) :
    memRead (writeSpan m i bs) i bs.length = some bs := by
  induction bs generalizing m i with
  | nil => rfl
  | cons b bs ih =>
    show memRead (writeSpan (writeByte m i b) (i + 1) bs) i (bs.length + 1) = _
    rw [memRead_succ, readByte_writeSpan_outside _ (.inl (Nat.lt_succ_self i)), readByte_writeByte_same, ih]
    rfl

/-- Reading one byte more. -/
theorem memRead_snoc (m : Memory) (i n : Nat) :
    memRead m i (n + 1) = (memRead m i n).bind fun bs => (readByte m (i + n)).map fun b => bs ++ [b] := by
  induction n generalizing i with
  | zero =>
    rw [memRead_succ]
    simp only [memRead, Nat.add_zero]
    cases readByte m i <;> rfl
  | succ n ih =>
    rw [memRead_succ, ih (i + 1), memRead_succ, show i + 1 + n = i + (n + 1) by omega]
    cases readByte m i with
    | none => rfl
    | some b =>
      cases memRead m (i + 1) n with
      | none => rfl
      | some bs => cases readByte m (i + (n + 1)) <;> rfl

/-- Storing the next byte extends the span that can be read. -/
theorem memRead_store_next {m : Memory} {n : Nat} {bs : List Byte} (b : Byte) (h : memRead m 0 n = some bs) :
    memRead (writeSpan m n [b]) 0 (n + 1) = some (bs ++ [b]) := by
  have hpre : memRead (writeSpan m n [b]) 0 n = some bs := by
    rw [memRead_congr (m' := m) fun a _ h2 => readByte_writeSpan_outside m (.inl (by omega)), h]
  have hb : readByte (writeSpan m n [b]) (0 + n) = some b := by
    rw [Nat.zero_add]; exact readByte_writeByte_same m n b
  rw [memRead_snoc, hpre, hb]
  rfl

end Sys2Proof.Machine
end

