-- ==== Sys2Proof/Laws/State.lean ====
section
/-! SUPPORT. One lemma per field per named update of State, each true by rfl, so that no proof unfolds an update. -/

namespace Sys2Proof.Machine

@[simp] theorem txEmit_cfg (f : List Byte) (s : State) : (txEmit f s).cfg = s.cfg := rfl
@[simp] theorem txEmit_rxState (f : List Byte) (s : State) : (txEmit f s).rxState = s.rxState := rfl
@[simp] theorem txEmit_rxLen (f : List Byte) (s : State) : (txEmit f s).rxLen = s.rxLen := rfl
@[simp] theorem txEmit_rxRemain (f : List Byte) (s : State) : (txEmit f s).rxRemain = s.rxRemain := rfl
@[simp] theorem txEmit_rxBuf (f : List Byte) (s : State) : (txEmit f s).rxBuf = s.rxBuf := rfl
@[simp] theorem txEmit_rcState (f : List Byte) (s : State) : (txEmit f s).rcState = s.rcState := rfl
@[simp] theorem txEmit_ptFrame (f : List Byte) (s : State) : (txEmit f s).ptFrame = s.ptFrame := rfl
@[simp] theorem txEmit_ptFlen (f : List Byte) (s : State) : (txEmit f s).ptFlen = s.ptFlen := rfl
@[simp] theorem txEmit_ptRetries (f : List Byte) (s : State) : (txEmit f s).ptRetries = s.ptRetries := rfl
@[simp] theorem txEmit_ptDeadline (f : List Byte) (s : State) : (txEmit f s).ptDeadline = s.ptDeadline := rfl
@[simp] theorem txEmit_portT (f : List Byte) (s : State) : (txEmit f s).portT = s.portT := rfl
@[simp] theorem txEmit_res (f : List Byte) (s : State) : (txEmit f s).res = s.res := rfl
@[simp] theorem txEmit_tx (f : List Byte) (s : State) : (txEmit f s).tx = s.tx ++ [f] := rfl
@[simp] theorem txEmit_ev (f : List Byte) (s : State) : (txEmit f s).ev = s.ev := rfl
@[simp] theorem txEmit_inq (f : List Byte) (s : State) : (txEmit f s).inq = s.inq := rfl
@[simp] theorem txEmit_trace (f : List Byte) (s : State) : (txEmit f s).trace = s.trace := rfl

@[simp] theorem evEmit_cfg (e : Event) (s : State) : (evEmit e s).cfg = s.cfg := rfl
@[simp] theorem evEmit_rxState (e : Event) (s : State) : (evEmit e s).rxState = s.rxState := rfl
@[simp] theorem evEmit_rxLen (e : Event) (s : State) : (evEmit e s).rxLen = s.rxLen := rfl
@[simp] theorem evEmit_rxRemain (e : Event) (s : State) : (evEmit e s).rxRemain = s.rxRemain := rfl
@[simp] theorem evEmit_rxBuf (e : Event) (s : State) : (evEmit e s).rxBuf = s.rxBuf := rfl
@[simp] theorem evEmit_rcState (e : Event) (s : State) : (evEmit e s).rcState = s.rcState := rfl
@[simp] theorem evEmit_ptFrame (e : Event) (s : State) : (evEmit e s).ptFrame = s.ptFrame := rfl
@[simp] theorem evEmit_ptFlen (e : Event) (s : State) : (evEmit e s).ptFlen = s.ptFlen := rfl
@[simp] theorem evEmit_ptRetries (e : Event) (s : State) : (evEmit e s).ptRetries = s.ptRetries := rfl
@[simp] theorem evEmit_ptDeadline (e : Event) (s : State) : (evEmit e s).ptDeadline = s.ptDeadline := rfl
@[simp] theorem evEmit_portT (e : Event) (s : State) : (evEmit e s).portT = s.portT := rfl
@[simp] theorem evEmit_res (e : Event) (s : State) : (evEmit e s).res = s.res := rfl
@[simp] theorem evEmit_tx (e : Event) (s : State) : (evEmit e s).tx = s.tx := rfl
@[simp] theorem evEmit_ev (e : Event) (s : State) : (evEmit e s).ev = s.ev ++ [e] := rfl
@[simp] theorem evEmit_inq (e : Event) (s : State) : (evEmit e s).inq = s.inq := rfl
@[simp] theorem evEmit_trace (e : Event) (s : State) : (evEmit e s).trace = s.trace := rfl

@[simp] theorem resReturn_cfg (r : SendResult) (s : State) : (resReturn r s).cfg = s.cfg := rfl
@[simp] theorem resReturn_rxState (r : SendResult) (s : State) : (resReturn r s).rxState = s.rxState := rfl
@[simp] theorem resReturn_rxLen (r : SendResult) (s : State) : (resReturn r s).rxLen = s.rxLen := rfl
@[simp] theorem resReturn_rxRemain (r : SendResult) (s : State) : (resReturn r s).rxRemain = s.rxRemain := rfl
@[simp] theorem resReturn_rxBuf (r : SendResult) (s : State) : (resReturn r s).rxBuf = s.rxBuf := rfl
@[simp] theorem resReturn_rcState (r : SendResult) (s : State) : (resReturn r s).rcState = s.rcState := rfl
@[simp] theorem resReturn_ptFrame (r : SendResult) (s : State) : (resReturn r s).ptFrame = s.ptFrame := rfl
@[simp] theorem resReturn_ptFlen (r : SendResult) (s : State) : (resReturn r s).ptFlen = s.ptFlen := rfl
@[simp] theorem resReturn_ptRetries (r : SendResult) (s : State) : (resReturn r s).ptRetries = s.ptRetries := rfl
@[simp] theorem resReturn_ptDeadline (r : SendResult) (s : State) : (resReturn r s).ptDeadline = s.ptDeadline := rfl
@[simp] theorem resReturn_portT (r : SendResult) (s : State) : (resReturn r s).portT = s.portT := rfl
@[simp] theorem resReturn_res (r : SendResult) (s : State) : (resReturn r s).res = s.res ++ [r] := rfl
@[simp] theorem resReturn_tx (r : SendResult) (s : State) : (resReturn r s).tx = s.tx := rfl
@[simp] theorem resReturn_ev (r : SendResult) (s : State) : (resReturn r s).ev = s.ev := rfl
@[simp] theorem resReturn_inq (r : SendResult) (s : State) : (resReturn r s).inq = s.inq := rfl
@[simp] theorem resReturn_trace (r : SendResult) (s : State) : (resReturn r s).trace = s.trace := rfl

@[simp] theorem note_cfg (c : Condition) (s : State) : (note c s).cfg = s.cfg := rfl
@[simp] theorem note_rxState (c : Condition) (s : State) : (note c s).rxState = s.rxState := rfl
@[simp] theorem note_rxLen (c : Condition) (s : State) : (note c s).rxLen = s.rxLen := rfl
@[simp] theorem note_rxRemain (c : Condition) (s : State) : (note c s).rxRemain = s.rxRemain := rfl
@[simp] theorem note_rxBuf (c : Condition) (s : State) : (note c s).rxBuf = s.rxBuf := rfl
@[simp] theorem note_rcState (c : Condition) (s : State) : (note c s).rcState = s.rcState := rfl
@[simp] theorem note_ptFrame (c : Condition) (s : State) : (note c s).ptFrame = s.ptFrame := rfl
@[simp] theorem note_ptFlen (c : Condition) (s : State) : (note c s).ptFlen = s.ptFlen := rfl
@[simp] theorem note_ptRetries (c : Condition) (s : State) : (note c s).ptRetries = s.ptRetries := rfl
@[simp] theorem note_ptDeadline (c : Condition) (s : State) : (note c s).ptDeadline = s.ptDeadline := rfl
@[simp] theorem note_portT (c : Condition) (s : State) : (note c s).portT = s.portT := rfl
@[simp] theorem note_res (c : Condition) (s : State) : (note c s).res = s.res := rfl
@[simp] theorem note_tx (c : Condition) (s : State) : (note c s).tx = s.tx := rfl
@[simp] theorem note_ev (c : Condition) (s : State) : (note c s).ev = s.ev := rfl
@[simp] theorem note_inq (c : Condition) (s : State) : (note c s).inq = s.inq := rfl
@[simp] theorem note_trace (c : Condition) (s : State) : (note c s).trace = s.trace ++ [c] := rfl

@[simp] theorem applyReset_cfg (s : State) : (applyReset s).cfg = s.cfg := rfl
@[simp] theorem applyReset_rxState (s : State) : (applyReset s).rxState = .seekSync1 := rfl
@[simp] theorem applyReset_rxLen (s : State) : (applyReset s).rxLen = 0 := rfl
@[simp] theorem applyReset_rxRemain (s : State) : (applyReset s).rxRemain = 0 := rfl
@[simp] theorem applyReset_rxBuf (s : State) : (applyReset s).rxBuf = [] := rfl
@[simp] theorem applyReset_rcState (s : State) : (applyReset s).rcState = .idle := rfl
@[simp] theorem applyReset_ptFrame (s : State) : (applyReset s).ptFrame = [] := rfl
@[simp] theorem applyReset_ptFlen (s : State) : (applyReset s).ptFlen = 0 := rfl
@[simp] theorem applyReset_ptRetries (s : State) : (applyReset s).ptRetries = 0 := rfl
@[simp] theorem applyReset_ptDeadline (s : State) : (applyReset s).ptDeadline = 0 := rfl
@[simp] theorem applyReset_portT (s : State) : (applyReset s).portT = s.portT := rfl
@[simp] theorem applyReset_res (s : State) : (applyReset s).res = s.res := rfl
@[simp] theorem applyReset_tx (s : State) : (applyReset s).tx = s.tx := rfl
@[simp] theorem applyReset_ev (s : State) : (applyReset s).ev = s.ev := rfl
@[simp] theorem applyReset_inq (s : State) : (applyReset s).inq = s.inq := rfl
@[simp] theorem applyReset_trace (s : State) : (applyReset s).trace = s.trace := rfl

@[simp] theorem abort_cfg (s : State) : (abort s).cfg = s.cfg := rfl
@[simp] theorem abort_rxState (s : State) : (abort s).rxState = s.rxState := rfl
@[simp] theorem abort_rxLen (s : State) : (abort s).rxLen = s.rxLen := rfl
@[simp] theorem abort_rxRemain (s : State) : (abort s).rxRemain = s.rxRemain := rfl
@[simp] theorem abort_rxBuf (s : State) : (abort s).rxBuf = s.rxBuf := rfl
@[simp] theorem abort_rcState (s : State) : (abort s).rcState = .idle := rfl
@[simp] theorem abort_ptFrame (s : State) : (abort s).ptFrame = s.ptFrame := rfl
@[simp] theorem abort_ptFlen (s : State) : (abort s).ptFlen = s.ptFlen := rfl
@[simp] theorem abort_ptRetries (s : State) : (abort s).ptRetries = s.ptRetries := rfl
@[simp] theorem abort_ptDeadline (s : State) : (abort s).ptDeadline = s.ptDeadline := rfl
@[simp] theorem abort_portT (s : State) : (abort s).portT = s.portT := rfl
@[simp] theorem abort_res (s : State) : (abort s).res = s.res := rfl
@[simp] theorem abort_tx (s : State) : (abort s).tx = s.tx := rfl
@[simp] theorem abort_ev (s : State) : (abort s).ev = s.ev := rfl
@[simp] theorem abort_inq (s : State) : (abort s).inq = s.inq := rfl
@[simp] theorem abort_trace (s : State) : (abort s).trace = s.trace := rfl

/-! What raising a condition changes (60_exceptions.md R225): RX_STATE, RC_STATE, RES, EV and the trace; nothing else. -/

@[simp] theorem raise_cfg (c : Condition) (s : State) : (raise c s).cfg = s.cfg := by cases c <;> rfl
@[simp] theorem raise_rxLen (c : Condition) (s : State) : (raise c s).rxLen = s.rxLen := by cases c <;> rfl
@[simp] theorem raise_rxRemain (c : Condition) (s : State) : (raise c s).rxRemain = s.rxRemain := by cases c <;> rfl
@[simp] theorem raise_rxBuf (c : Condition) (s : State) : (raise c s).rxBuf = s.rxBuf := by cases c <;> rfl
@[simp] theorem raise_ptFrame (c : Condition) (s : State) : (raise c s).ptFrame = s.ptFrame := by cases c <;> rfl
@[simp] theorem raise_ptFlen (c : Condition) (s : State) : (raise c s).ptFlen = s.ptFlen := by cases c <;> rfl
@[simp] theorem raise_ptRetries (c : Condition) (s : State) : (raise c s).ptRetries = s.ptRetries := by cases c <;> rfl
@[simp] theorem raise_ptDeadline (c : Condition) (s : State) : (raise c s).ptDeadline = s.ptDeadline := by cases c <;> rfl
@[simp] theorem raise_portT (c : Condition) (s : State) : (raise c s).portT = s.portT := by cases c <;> rfl
@[simp] theorem raise_tx (c : Condition) (s : State) : (raise c s).tx = s.tx := by cases c <;> rfl
@[simp] theorem raise_inq (c : Condition) (s : State) : (raise c s).inq = s.inq := by cases c <;> rfl
@[simp] theorem raise_trace (c : Condition) (s : State) : (raise c s).trace = s.trace ++ [c] := by cases c <;> rfl
@[simp] theorem raise_syncLost_rxState (s : State) : (raise .syncLost s).rxState = s.rxState := rfl
@[simp] theorem raise_syncLost_rcState (s : State) : (raise .syncLost s).rcState = s.rcState := rfl
@[simp] theorem raise_syncLost_res (s : State) : (raise .syncLost s).res = s.res := rfl
@[simp] theorem raise_syncLost_ev (s : State) : (raise .syncLost s).ev = s.ev := rfl
@[simp] theorem raise_lengthOverflow_rxState (s : State) : (raise .lengthOverflow s).rxState = .seekSync1 := rfl
@[simp] theorem raise_lengthOverflow_rcState (s : State) : (raise .lengthOverflow s).rcState = s.rcState := rfl
@[simp] theorem raise_lengthOverflow_res (s : State) : (raise .lengthOverflow s).res = s.res := rfl
@[simp] theorem raise_lengthOverflow_ev (s : State) : (raise .lengthOverflow s).ev = s.ev := rfl
@[simp] theorem raise_checksumMismatch_rxState (s : State) : (raise .checksumMismatch s).rxState = .seekSync1 := rfl
@[simp] theorem raise_checksumMismatch_rcState (s : State) : (raise .checksumMismatch s).rcState = s.rcState := rfl
@[simp] theorem raise_checksumMismatch_res (s : State) : (raise .checksumMismatch s).res = s.res := rfl
@[simp] theorem raise_checksumMismatch_ev (s : State) : (raise .checksumMismatch s).ev = s.ev := rfl
@[simp] theorem raise_payloadTooLarge_rxState (s : State) : (raise .payloadTooLarge s).rxState = s.rxState := rfl
@[simp] theorem raise_payloadTooLarge_rcState (s : State) : (raise .payloadTooLarge s).rcState = s.rcState := rfl
@[simp] theorem raise_payloadTooLarge_res (s : State) : (raise .payloadTooLarge s).res = s.res ++ [.payloadTooLarge] := rfl
@[simp] theorem raise_payloadTooLarge_ev (s : State) : (raise .payloadTooLarge s).ev = s.ev := rfl
@[simp] theorem raise_linkBusy_rxState (s : State) : (raise .linkBusy s).rxState = s.rxState := rfl
@[simp] theorem raise_linkBusy_rcState (s : State) : (raise .linkBusy s).rcState = s.rcState := rfl
@[simp] theorem raise_linkBusy_res (s : State) : (raise .linkBusy s).res = s.res ++ [.linkBusy] := rfl
@[simp] theorem raise_linkBusy_ev (s : State) : (raise .linkBusy s).ev = s.ev := rfl
@[simp] theorem raise_nackReceived_rxState (s : State) : (raise .nackReceived s).rxState = s.rxState := rfl
@[simp] theorem raise_nackReceived_rcState (s : State) : (raise .nackReceived s).rcState = s.rcState := rfl
@[simp] theorem raise_nackReceived_res (s : State) : (raise .nackReceived s).res = s.res := rfl
@[simp] theorem raise_nackReceived_ev (s : State) : (raise .nackReceived s).ev = s.ev := rfl
@[simp] theorem raise_retriesExhausted_rxState (s : State) : (raise .retriesExhausted s).rxState = s.rxState := rfl
@[simp] theorem raise_retriesExhausted_rcState (s : State) : (raise .retriesExhausted s).rcState = .idle := rfl
@[simp] theorem raise_retriesExhausted_res (s : State) : (raise .retriesExhausted s).res = s.res := rfl
@[simp] theorem raise_retriesExhausted_ev (s : State) : (raise .retriesExhausted s).ev = s.ev ++ [.sendResolved .retriesExhausted] := rfl

end Sys2Proof.Machine
end

