-- ==== Sys2Proof/Laws/Ops.lean ====
section
/-! SUPPORT. For each shared operation of the controller and the receiver, what it can do when it answers a next
state. Later proofs cite these and do not unfold the operations. -/

namespace Sys2Proof.Machine

theorem withLegalCfg_of_legal {s : State} (h : s.cfg.legal = true) (r : Result) : withLegalCfg s r = r := if_pos h

theorem withLegalCfg_next {s t : State} {r : Result} (h : withLegalCfg s r = .next t) :
    s.cfg.legal = true ∧ r = .next t := by
  unfold withLegalCfg at h
  split at h
  · exact ⟨‹_›, h⟩
  · cases h

@[simp] theorem andThen_next (s : State) (k : State → Result) : andThen (.next s) k = k s := rfl

theorem andThen_eq_next {r : Result} {k : State → Result} {t : State} (h : andThen r k = .next t) :
    ∃ u, r = .next u ∧ k u = .next t := by
  cases r with
  | next u => exact ⟨u, rfl, h⟩
  | fault f => cases h
  | refused f => cases h

theorem andThen_assoc (r : Result) (k k' : State → Result) :
    andThen (andThen r k) k' = andThen r fun s => andThen (k s) k' := by cases r <;> rfl

theorem retry_next {s t : State} (h : retry s = .next t) :
    ∃ f, memRead s.ptFrame 0 s.ptFlen.toNat = some f ∧
      t = { s with tx := s.tx ++ [f], ptRetries := s.ptRetries - 1, ptDeadline := deadlineFrom s.cfg (now s) } := by
  unfold retry at h
  split at h
  · cases h
  · next f hf => cases h; exact ⟨f, hf, rfl⟩

theorem retry_of_read {s : State} {f : List Byte} (h : memRead s.ptFrame 0 s.ptFlen.toNat = some f) :
    retry s = .next { s with
      tx := s.tx ++ [f], ptRetries := s.ptRetries - 1, ptDeadline := deadlineFrom s.cfg (now s) } := by
  simp only [retry, h]; rfl

theorem attemptFailed_next {s t : State} (h : attemptFailed s = .next t) :
    (s.ptRetries = 0 ∧ t = raise .retriesExhausted s) ∨ (s.ptRetries ≠ 0 ∧ retry s = .next t) := by
  unfold attemptFailed at h
  split at h
  · cases h; exact .inl ⟨‹_›, rfl⟩
  · exact .inr ⟨‹_›, h⟩

theorem onNack_next {s t : State} (h : onNack s = .next t) :
    (s.rcState = .sent ∧ attemptFailed (raise .nackReceived s) = .next t) ∨ (s.rcState ≠ .sent ∧ t = s) := by
  unfold onNack at h
  split at h
  · exact .inl ⟨‹_›, h⟩
  · cases h; exact .inr ⟨‹_›, rfl⟩

theorem onFrame_next {f : Frame} {s t : State} (h : onFrame f s = .next t) :
    (f.command = s.cfg.ackCmd ∧ t = onAck s) ∨
    (f.command ≠ s.cfg.ackCmd ∧ f.command = s.cfg.nackCmd ∧ onNack s = .next t) ∨
    (f.command ≠ s.cfg.ackCmd ∧ f.command ≠ s.cfg.nackCmd ∧ t = onOrdinary f s) := by
  unfold onFrame at h
  split at h
  · cases h; exact .inl ⟨‹_›, rfl⟩
  · split at h
    · exact .inr (.inl ⟨‹_›, ‹_›, h⟩)
    · cases h; exact .inr (.inr ⟨‹_›, ‹_›, rfl⟩)

theorem tick_next {s t : State} (h : tick s = .next t) :
    (s.rcState = .sent ∧ expired s.cfg (now s) s.ptDeadline = true ∧ attemptFailed s = .next t) ∨
    (¬ (s.rcState = .sent ∧ expired s.cfg (now s) s.ptDeadline = true) ∧ t = s) := by
  unfold tick at h
  split at h
  · next hc => exact .inl ⟨hc.1, hc.2, h⟩
  · cases h; exact .inr ⟨‹_›, rfl⟩

theorem send_next {c : Byte} {p : List Byte} {s t : State} (h : send c p s = .next t) :
    (s.rcState = .sent ∧ t = raise .linkBusy s) ∨
    (s.rcState ≠ .sent ∧ s.cfg.maxPayload < p.length ∧ t = raise .payloadTooLarge s) ∨
    (s.rcState ≠ .sent ∧ p.length ≤ s.cfg.maxPayload ∧
      t = { s with
        res := s.res ++ [.ok], tx := s.tx ++ [frameBytes s.cfg c p],
        ptFrame := writeSpan s.ptFrame 0 (frameBytes s.cfg c p),
        ptFlen := BitVec.ofNat 9 (frameBytes s.cfg c p).length, ptRetries := s.cfg.maxRetries,
        ptDeadline := deadlineFrom s.cfg (now s), rcState := .sent }) := by
  unfold send at h
  split at h
  · cases h; exact .inl ⟨‹_›, rfl⟩
  · next hs =>
    by_cases hp : p.length ≤ s.cfg.maxPayload
    · have hb : 0 + (frameBytes s.cfg c p).length ≤ s.cfg.maxFrame := by
        simp only [frameBytes_length, Config.maxFrame, Config.overhead]; omega
      simp only [encodeFrame_of_le c hp, memWrite_of_le s.ptFrame hb] at h
      cases h
      exact .inr (.inr ⟨hs, hp, rfl⟩)
    · simp only [encodeFrame_of_gt c (not_le.1 hp)] at h
      cases h
      exact .inr (.inl ⟨hs, not_le.1 hp, rfl⟩)

theorem validate_next {s t : State} (h : validate s = .next t) :
    ∃ body, memRead s.rxBuf 0 s.rxLen.toNat = some body ∧
      ((decodeSpan s.cfg (s.cfg.sync1 :: s.cfg.sync2 :: s.rxLen :: body) = .checksumMismatch ∧
          t = raise .checksumMismatch { s with rxState := .seekSync1 }) ∨
        ∃ f, decodeSpan s.cfg (s.cfg.sync1 :: s.cfg.sync2 :: s.rxLen :: body) = .frame f ∧
          onFrame f { s with rxState := .seekSync1 } = .next t) := by
  unfold validate at h
  split at h
  · cases h
  · next body hb =>
    refine ⟨body, hb, ?_⟩
    split at h
    · cases h
    · next hd => cases h; exact .inl ⟨hd, rfl⟩
    · next f hd => exact .inr ⟨f, hd, h⟩

theorem readBody_next {b : Byte} {s t : State} (h : readBody b s = .next t) :
    s.rxRemain ≠ 0 ∧ s.rxRemain.toNat ≤ s.rxLen.toNat ∧ rxIndex s < s.cfg.maxBody ∧
      ((s.rxRemain = 1 ∧ validate { s with rxBuf := writeByte s.rxBuf (rxIndex s) b, rxRemain := 0 } = .next t) ∨
        (s.rxRemain ≠ 1 ∧ t = { s with rxBuf := writeByte s.rxBuf (rxIndex s) b, rxRemain := s.rxRemain - 1 })) := by
  unfold readBody at h
  split at h
  · cases h
  · next hr =>
    simp only [not_or, not_lt] at hr
    unfold memWrite at h
    by_cases hc : rxIndex s + [b].length ≤ s.cfg.maxBody
    · simp only [if_pos hc] at h
      refine ⟨hr.1, hr.2, by simpa using hc, ?_⟩
      split at h
      · exact .inl ⟨‹_›, h⟩
      · cases h; exact .inr ⟨‹_›, rfl⟩
    · simp only [if_neg hc] at h
      cases h

/-- What FEEDBYTE can do when it answers a next state, one case for each state of the receiver (42_receiver_sync.md R141). -/
theorem feedByte_next {b : Byte} {s t : State} (h : feedByte b s = .next t) :
    (s.rxState = .seekSync1 ∧ t = seekSync1 b s) ∨ (s.rxState = .seekSync2 ∧ t = seekSync2 b s) ∨
    (s.rxState = .readLength ∧ t = readLength b s) ∨ (s.rxState = .readBody ∧ readBody b s = .next t) := by
  unfold feedByte at h
  split at h
  · cases h; exact .inl ⟨‹_›, rfl⟩
  · cases h; exact .inr (.inl ⟨‹_›, rfl⟩)
  · cases h; exact .inr (.inr (.inl ⟨‹_›, rfl⟩))
  · exact .inr (.inr (.inr ⟨‹_›, h⟩))

@[simp] theorem feedAll_nil (s : State) : feedAll [] s = .next s := rfl

theorem feedAll_cons (b : Byte) (bs : List Byte) (s : State) :
    feedAll (b :: bs) s = andThen (feedByte b s) (feedAll bs) := rfl

theorem feedAll_append (xs ys : List Byte) (s : State) : feedAll (xs ++ ys) s = andThen (feedAll xs s) (feedAll ys) := by
  induction xs generalizing s with
  | nil => rfl
  | cons b bs ih =>
    rw [List.cons_append, feedAll_cons, feedAll_cons, andThen_assoc]
    congr 1
    funext u
    exact ih u

/-- A relation that every FEEDBYTE keeps holds over feeding any bytes: the induction, once. -/
theorem feedAll_induction {R : State → State → Prop} (hrefl : ∀ s, R s s) (htrans : ∀ s t u, R s t → R t u → R s u)
    (hstep : ∀ b s t, feedByte b s = .next t → R s t) {bs : List Byte} {s t : State} (h : feedAll bs s = .next t) :
    R s t := by
  induction bs generalizing s with
  | nil => cases h; exact hrefl _
  | cons b bs ih =>
    obtain ⟨u, hu, ht⟩ := andThen_eq_next h
    exact htrans _ _ _ (hstep b s u hu) (ih ht)

end Sys2Proof.Machine
end

