-- ==== Sys2Proof/Laws/PerInstr.lean ====
section
/-! SUPPORT. Statements about every instruction as syntax, one lemma per constructor. -/

namespace Sys2Proof.Laws.TableRow

/-- The match and mask of the row of spec/opcode_table.json an instruction belongs to. -/
def row : Instr → BitVec 32 × BitVec 32
  | .send _ _ => (0x1, 0xF)
  | .feedByte _ => (0x2, 0xF)
  | .tick => (0x3, 0xF)
  | .abort => (0x4, 0xF)
  | .sendCtrl _ => (0x5, 0xF)
  | .frameAck _ _ _ => (0xAA550006, 0xFFFF00FF)
  | .frameNack _ _ _ => (0xAA550015, 0xFFFF00FF)
  | .frameOrdinary _ _ _ _ => (0xAA550000, 0xFFFF0000)

/-- The word of the table a packet shows: the op code, or the header word with byte 0 in bits 31:24 (30_encoding.md
R70). -/
def word : Packet → BitVec 32
  | .op code _ => code.setWidth 32
  | .wire (b0 :: b1 :: b2 :: b3 :: _) => b0 ++ b1 ++ b2 ++ b3
  | .wire _ => 0

/-- The encoding of an instruction under the default CFG matches its row of the table. -/
def Statement (i : Instr) : Prop := word (encode Config.default i) &&& (row i).2 = (row i).1

/-- The header word of a control frame under its row's mask, which leaves the length out. -/
theorem header_masked_length (l c : Byte) :
    ((0xAA : Byte) ++ (0x55 : Byte) ++ l ++ c : BitVec 32) &&& 0xFFFF00FF
      = (0xAA : Byte) ++ (0x55 : Byte) ++ (0 : Byte) ++ c := by
  ext i hi
  simp only [BitVec.getElem_and, BitVec.getElem_append]
  interval_cases i <;> simp

/-- The header word of an ordinary frame under its row's mask, which leaves length and command out. -/
theorem header_masked_command (l c : Byte) :
    ((0xAA : Byte) ++ (0x55 : Byte) ++ l ++ c : BitVec 32) &&& 0xFFFF0000 = 0xAA550000 := by
  ext i hi
  simp only [BitVec.getElem_and, BitVec.getElem_append]
  interval_cases i <;> simp

/-- An op code is all its row's mask looks at. -/
theorem op_masked (code : BitVec 4) : code.setWidth 32 &&& 0xF = code.setWidth 32 := by revert code; decide

theorem send (c : Byte) (p : List Byte) : Statement (.send c p) := op_masked 1
theorem feedByte (b : Byte) : Statement (.feedByte b) := op_masked 2
theorem tick : Statement .tick := op_masked 3
theorem abort : Statement .abort := op_masked 4
theorem sendCtrl (k : CtrlKind) : Statement (.sendCtrl k) := op_masked 5
theorem frameAck (l : Byte) (p ck : List Byte) : Statement (.frameAck l p ck) := header_masked_length l 0x06
theorem frameNack (l : Byte) (p ck : List Byte) : Statement (.frameNack l p ck) := header_masked_length l 0x15
theorem frameOrdinary (l c : Byte) (p ck : List Byte) : Statement (.frameOrdinary l c p ck) := header_masked_command l c

end Sys2Proof.Laws.TableRow
end

