-- ==== Sys2Proof/Tests/Slice0.lean ====
section
/-! SUPPORT. The model's own tests: ill-formed instructions are refused, words written out from the encodings decode, at
most two single steps per instruction with results taken from spec/95_test_vectors.md, and for each statement with
hypotheses a named witness that meets them. -/

namespace Sys2Proof.Tests

open Sys2Proof Sys2Proof.Machine

set_option maxRecDepth 10000

/-! ### Well-formedness: one ill-formed term for each check -/

theorem test_wf_send_256_bytes_refused : wellFormed .default (.send 0x01 (List.replicate 256 0)) = false := by decide
theorem test_wf_length_below_minimum_refused : lengthOk .default 0x01 [] = false := by decide
theorem test_wf_length_above_maximum_refused : lengthOk .default 0x23 (List.replicate 33 0) = false := by decide
theorem test_wf_length_not_of_payload_refused : wellFormed .default (.frameAck 0x03 [] [0x06]) = false := by decide
theorem test_wf_checksum_refused : wellFormed .default (.frameNack 0x02 [] [0x14]) = false := by decide
theorem test_wf_checksum_size_refused : wellFormed .default (.frameOrdinary 0x02 0x01 [] [0x00, 0x01]) = false := by
  decide
theorem test_wf_ordinary_ack_refused : wellFormed .default (.frameOrdinary 0x02 0x06 [] [0x06]) = false := by decide
theorem test_wf_ordinary_nack_refused : wellFormed .default (.frameOrdinary 0x02 0x15 [] [0x15]) = false := by decide
theorem test_cfg_payload_refused : Config.legal { Config.default with maxPayload := 254 } = false := by decide
theorem test_cfg_timeout_zero_refused : Config.legal { Config.default with timeout := 0 } = false := by decide
theorem test_cfg_timeout_half_range_refused : Config.legal { Config.default with timeout := 2 ^ 31 } = false := by decide
theorem test_cfg_equal_commands_refused : Config.legal { Config.default with nackCmd := 0x06 } = false := by decide
theorem test_cfg_time_width_refused : Config.legal { Config.default with wTime := 1, timeout := 1 } = false := by decide
theorem test_cfg_largest_payload_legal : Config.legal { Config.default with maxPayload := 253 } = true := by decide

/-! ### Decoding: words written out from 30_encoding.md R70, R78 (95_test_vectors.md V10 to V14, part 6) -/

theorem test_decode_send : decode .default (.op 0b0001#4 [0x01, 0x03, 0x10, 0x20, 0x30])
    = .instr (.send 0x01 [0x10, 0x20, 0x30]) := by decide
theorem test_decode_feedByte : decode .default (.op 0b0010#4 [0xFF]) = .instr (.feedByte 0xFF) := by decide
theorem test_decode_tick : decode .default (.op 0b0011#4 []) = .instr .tick := by decide
theorem test_decode_abort : decode .default (.op 0b0100#4 []) = .instr .abort := by decide
theorem test_decode_sendCtrl_nack : decode .default (.op 0b0101#4 [0x01]) = .instr (.sendCtrl .nack) := by decide
theorem test_decode_frameAck : decode .default
    (.wire [0b10101010#8, 0b01010101#8, 0b00000010#8, 0b00000110#8, 0x06]) = .instr (.frameAck 0x02 [] [0x06]) := by
  decide
theorem test_decode_frameNack : decode .default
    (.wire [0b10101010#8, 0b01010101#8, 0b00000011#8, 0b00010101#8, 0x99, 0x8C])
    = .instr (.frameNack 0x03 [0x99] [0x8C]) := by decide
theorem test_decode_frameOrdinary : decode .default
    (.wire [0b10101010#8, 0b01010101#8, 0b00000100#8, 0b01000010#8, 0xAA, 0x55, 0xBD])
    = .instr (.frameOrdinary 0x04 0x42 [0xAA, 0x55] [0xBD]) := by decide
theorem test_decode_reserved : decode .default (.op 0xF []) = .rejected (.reservedOpcode 0xF) := by decide
theorem test_decode_short_operands : decode .default (.op 0x1 [0x01, 0x02, 0x00]) = .rejected (.badOperands 1) := by
  decide
theorem test_decode_kind_is_one_bit : decode .default (.op 0x5 [0x02]) = .rejected (.badOperands 5) := by decide
theorem test_decode_no_marker : decode .default (.wire [0xAA, 0x56, 0x02, 0x06, 0x06]) = .rejected .noStartMarker := by
  decide
theorem test_table_frame_ack : decodeTableWord 32 0xAA550006 = some (.frameAck 0x00 [] []) := by decide
theorem test_table_frame_ordinary : decodeTableWord 32 0xAA550301
    = some (.frameOrdinary 0x03 0x01 [0x00] [0x00]) := by decide
theorem test_table_send : decodeTableWord 8 0x1 = some (.send 0x00 []) := by decide

/-! ### Checksums of 95_test_vectors.md V1, V3, and frames of V10 -/

theorem test_xor8_check : xor8 [0x31, 0x32, 0x33, 0x34, 0x35, 0x36, 0x37, 0x38, 0x39] = 0x31 := by decide
theorem test_crc16_span : crc CrcParams.crc16Default [0x42, 0xAA, 0x55] = 0x47B4 := by decide
theorem test_encode_crc16 : encodeFrame { Config.default with ckAlg := .crc16 } 0x01 [0x10, 0x20, 0x30]
    = some [0xAA, 0x55, 0x06, 0x01, 0x10, 0x20, 0x30, 0x81, 0xA2] := by decide
theorem test_decode_span_swapped_checksum : decodeSpan { Config.default with ckAlg := .crc16 }
    [0xAA, 0x55, 0x06, 0x01, 0x10, 0x20, 0x30, 0xA2, 0x81] = .checksumMismatch := by decide

/-! ### Small states -/

/-- A pending send of command 01, empty payload (frame AA 55 02 01 01), made at time 1000. -/
def pending : State :=
  { State.reset with rcState := .sent, ptFrame := [(0, 0xAA), (1, 0x55), (2, 0x02), (3, 0x01), (4, 0x01)], ptFlen := 5,
                     ptRetries := 3, ptDeadline := 1100, portT := 1100 }

/-- The same with a frame of length 3 half received: one body byte stored, two to come. -/
def midBody : State := { pending with rxState := .readBody, rxLen := 3, rxRemain := 2, rxBuf := [(0, 0x02)] }

/-- The same with the last body byte to come. -/
def lastByte : State := { pending with rxState := .readBody, rxLen := 3, rxRemain := 1, rxBuf := [(0, 0x02), (1, 0xFF)] }

/-! ### Single steps (95_test_vectors.md V40, V43, V45, V48, V49, V52, V53, V55 and part 4) -/

theorem test_send_pending_record : (nextState (exec (.send 0x01 [0x10, 0x20, 0x30]) { State.reset with portT := 1000 })).map
    (fun t => (t.ptRetries, t.ptDeadline, memRead t.ptFrame 0 8))
    = some (3, 1100, some [0xAA, 0x55, 0x05, 0x01, 0x10, 0x20, 0x30, 0x01]) := by decide
theorem test_send_busy_before_too_large : (nextState (exec (.send 0x02 (List.replicate 33 0)) pending)).map
    (fun t => (t.res, t.tx, t.ptFlen)) = some ([.linkBusy], [], 5) := by decide
theorem test_feedByte_second_marker_candidate : (nextState (exec (.feedByte 0xAA) { pending with rxState := .seekSync2 })).map
    (fun t => t.rxState) = some .seekSync2 := by decide
theorem test_feedByte_last_byte_delivers : (nextState (exec (.feedByte 0xFD) lastByte)).map
    (fun t => (t.rxState, t.rcState, t.ev)) = some (.seekSync1, .sent, [.frameDelivered 0x02 [0xFF]]) := by decide
theorem test_tick_at_deadline_retries : (nextState (exec .tick pending)).map
    (fun t => (t.ptRetries, t.ptDeadline, t.tx)) = some (2, 1200, [[0xAA, 0x55, 0x02, 0x01, 0x01]]) := by decide
theorem test_tick_before_deadline : (nextState (exec .tick { pending with portT := 1099 })).map
    (fun t => (t.ptRetries, t.tx)) = some (3, []) := by decide
theorem test_abort_reports_nothing : (nextState (exec .abort pending)).map (fun t => (t.rcState, t.ev)) = some (.idle, []) := by
  decide
theorem test_sendCtrl_nack : (nextState (exec (.sendCtrl .nack) pending)).map (fun t => (t.rcState, t.tx))
    = some (.sent, [[0xAA, 0x55, 0x02, 0x15, 0x15]]) := by decide
theorem test_frameAck_with_payload_resolves : (nextState (exec (.frameAck 0x03 [0x99] [0x9F]) pending)).map
    (fun t => (t.rcState, t.ev)) = some (.idle, [.sendResolved .ok]) := by decide
theorem test_frameAck_bad_checksum_dropped : (nextState (exec (.frameAck 0x02 [] [0x07]) pending)).map
    (fun t => (t.rcState, t.ev, t.trace)) = some (.sent, [], [.checksumMismatch]) := by decide
theorem test_frameNack_last_retry_exhausts : (nextState (exec (.frameNack 0x02 [] [0x15]) { pending with ptRetries := 0 })).map
    (fun t => (t.rcState, t.ev, t.tx)) = some (.idle, [.sendResolved .retriesExhausted], []) := by decide
theorem test_frameNack_retries_before_deadline : (nextState (exec (.frameNack 0x02 [] [0x15])
    { pending with portT := 1040 })).map (fun t => (t.ptRetries, t.ptDeadline)) = some (2, 1140) := by decide
theorem test_frameOrdinary_auto_ack : (nextState (exec (.frameOrdinary 0x03 0x02 [0xFF] [0xFD])
    { pending with cfg := { Config.default with autoAck := true } })).map (fun t => (t.rcState, t.tx, t.ev))
    = some (.sent, [[0xAA, 0x55, 0x02, 0x06, 0x06]], [.frameDelivered 0x02 [0xFF]]) := by decide
theorem test_frameOrdinary_length_too_small : (nextState (exec (.frameOrdinary 0x00 0x02 [] []) pending)).map
    (fun t => (t.rxState, t.trace)) = some (.seekSync1, [.lengthOverflow, .syncLost]) := by decide

/-! ### Witnesses: for each statement with hypotheses, a state and operands that meet all of them -/

theorem exists_next {r : Result} (h : (nextState r).isSome = true) : ∃ t, r = .next t := by
  cases r with
  | next t => exact ⟨t, rfl⟩
  | fault f => cases h
  | refused f => cases h

theorem midBody_inv : Inv midBody where
  legal := by decide
  rx := fun _ => by decide
  pt := fun _ => ⟨0x01, [], by decide, by decide, by decide⟩
  buf := ⟨by decide, by decide, by decide, by decide⟩
  retries := by decide
  deadline := by decide

theorem lastByte_inv : Inv lastByte where
  legal := by decide
  rx := fun _ => by decide
  pt := fun _ => ⟨0x01, [], by decide, by decide, by decide⟩
  buf := ⟨by decide, by decide, by decide, by decide⟩
  retries := by decide
  deadline := by decide

theorem test_witness_SingleByteChangeChangesChecksum : Config.default.crc8 = CrcParams.crc8Default ∧
    Config.default.crc16 = CrcParams.crc16Default ∧ (0x00 : Byte) ≠ 0xFF := by decide

theorem test_witness_EncodeLaysOutTheFields : Config.default.legal = true ∧
    Config.default.maxPayload < (List.replicate 33 (0 : Byte)).length ∧
    (List.replicate 32 (0 : Byte)).length ≤ Config.default.maxPayload ∧
    (encodeFrame .default 0x7F (List.replicate 32 0)).isSome = true := by decide

theorem test_witness_EncodeThenDecodeGivesTheFrame : Config.default.legal = true ∧
    (List.replicate 32 (0 : Byte)).length ≤ Config.default.maxPayload := by decide

theorem test_witness_CorruptByteIsDetected :
    let f : List Byte := [0xAA, 0x55, 0x05, 0x01, 0x10, 0x20, 0x30, 0x01]
    Config.default.legal = true ∧ Config.default.crc8 = CrcParams.crc8Default ∧
    Config.default.crc16 = CrcParams.crc16Default ∧ encodeFrame .default 0x01 [0x10, 0x20, 0x30] = some f ∧
    (3 < f.length ∧ f.getD 3 0 ≠ 0x00) ∧ (3 ≤ 7 ∧ 7 < f.length ∧ f.getD 7 0 ≠ 0x00) := by decide

theorem test_witness_DecodeOfEncode : Config.default.legal = true ∧
    wellFormed .default (.send 0x06 (List.replicate 255 0)) = true ∧
    wellFormed .default (.frameAck 0x03 [0x99] [0x9F]) = true ∧ wellFormed .default (.frameNack 0x02 [] [0x15]) = true ∧
    wellFormed .default (.frameOrdinary 0x22 0x7F (List.replicate 32 0) [0x7F]) = true := by decide

theorem test_witness_EncodeOfDecode : decode .default (.op 0x1 [0x00, 0x00]) = .instr (.send 0x00 []) := by decide

theorem test_witness_WellFormedFrameIsAcceptedFrame : Config.default.legal = true ∧
    decode .default (.wire [0xAA, 0x55, 0x02, 0x06, 0x06]) = .instr (.frameAck 0x02 [] [0x06]) := by decide

theorem test_witness_StepRunsTheDecodedInstruction :
    let s := { pending with inq := [.perform 1100 (.op 0x3 [])] }
    s.cfg.legal = true ∧ s.inq = .perform 1100 (.op 0x3 []) :: [] ∧ decode s.cfg (.op 0x3 []) = .instr .tick := by decide

theorem test_witness_FetchWordRunsAsItsInstruction : pending.cfg = Config.default ∧
    decodeTableWord 8 0x3 = some .tick ∧ decodeTableWord 32 0xAA550006 = some (.frameAck 0x00 [] []) := by decide

theorem test_witness_StepWithoutInputWaits : pending.cfg.legal = true ∧ pending.inq = [] := by decide

theorem test_witness_ReservedOpcodeIsRefused :
    let s := { pending with inq := [.perform 0 (.op 0x0 []), .perform 0 (.op 0x6 []), .perform 0 (.op 0xF [0x01])] }
    s.cfg.legal = true ∧ s.inq = .perform 0 (.op 0x0 []) :: [.perform 0 (.op 0x6 []), .perform 0 (.op 0xF [0x01])] ∧
    ((0x0 : BitVec 4) = 0 ∨ 6 ≤ (0x0 : BitVec 4).toNat) ∧ ((0x6 : BitVec 4) = 0 ∨ 6 ≤ (0x6 : BitVec 4).toNat) ∧
    ((0xF : BitVec 4) = 0 ∨ 6 ≤ (0xF : BitVec 4).toNat) := by decide

theorem test_witness_IllegalConfigIsRefused :
    (State.cfg { pending with cfg := { Config.default with timeout := 0 } }).legal = false := by decide

theorem test_witness_StrayBytesAreFed :
    let s := { pending with inq := [.perform 0 (.wire [0xFF])] }
    s.cfg.legal = true ∧ s.inq = .perform 0 (.wire [0xFF]) :: [] ∧
    decode s.cfg (.wire [0xFF]) = .rejected .shortHeader := by decide

theorem test_witness_ResetLeavesTheResetValues :
    let s := { midBody with inq := [.rst] }
    s.cfg.legal = true ∧ s.inq = .rst :: [] := by decide

theorem test_witness_SeekStatesFollowTheirRules : pending.cfg.legal = true ∧ pending.rxState = .seekSync1 ∧
    (0xAA : Byte) = pending.cfg.sync1 ∧ (0x00 : Byte) ≠ pending.cfg.sync1 ∧
    State.rxState { pending with rxState := .seekSync2 } = .seekSync2 ∧ (0x55 : Byte) = pending.cfg.sync2 ∧
    (0xAA : Byte) ≠ pending.cfg.sync2 ∧ (0x00 : Byte) ≠ pending.cfg.sync2 := by decide

theorem test_witness_ReadLengthAcceptsExactlyTheLegalLengths :
    let s := { pending with rxState := .readLength }
    s.cfg.legal = true ∧ s.rxState = .readLength ∧
    (1 + s.cfg.ckSize ≤ (0x02 : Byte).toNat ∧ (0x22 : Byte).toNat ≤ 1 + s.cfg.maxPayload + s.cfg.ckSize) ∧
    ((0x01 : Byte).toNat < 1 + s.cfg.ckSize ∧ 1 + s.cfg.maxPayload + s.cfg.ckSize < (0x23 : Byte).toNat) := by decide

theorem test_witness_ReadBodyStoresEveryByte :
    (midBody.cfg.legal = true ∧ RxInv midBody ∧ midBody.rxState = .readBody ∧ 1 < midBody.rxRemain.toNat) ∧
    (lastByte.cfg.legal = true ∧ RxInv lastByte ∧ lastByte.rxState = .readBody ∧ lastByte.rxRemain = 1) :=
  ⟨⟨by decide, midBody_inv.rx, by decide, by decide⟩, by decide, lastByte_inv.rx, by decide, by decide⟩

theorem test_witness_BadChecksumDropsTheFrame :
    let span : List Byte := lastByte.cfg.sync1 :: lastByte.cfg.sync2 :: lastByte.rxLen :: ([0x02, 0xFF] ++ [0x00])
    lastByte.cfg.legal = true ∧ RxInv lastByte ∧ lastByte.rxState = .readBody ∧ lastByte.rxRemain = 1 ∧
    memRead lastByte.rxBuf 0 (lastByte.rxLen.toNat - 1) = some [0x02, 0xFF] ∧
    compute lastByte.cfg (spanCovered lastByte.cfg span) ≠ spanClaimed lastByte.cfg span :=
  ⟨by decide, lastByte_inv.rx, by decide, by decide, by decide, by decide⟩

theorem test_witness_GoodChecksumHandsTheFrameOn :
    let span : List Byte := lastByte.cfg.sync1 :: lastByte.cfg.sync2 :: lastByte.rxLen :: ([0x02, 0xFF] ++ [0xFD])
    lastByte.cfg.legal = true ∧ RxInv lastByte ∧ lastByte.rxState = .readBody ∧ lastByte.rxRemain = 1 ∧
    memRead lastByte.rxBuf 0 (lastByte.rxLen.toNat - 1) = some [0x02, 0xFF] ∧
    compute lastByte.cfg (spanCovered lastByte.cfg span) = spanClaimed lastByte.cfg span :=
  ⟨by decide, lastByte_inv.rx, by decide, by decide, by decide, by decide⟩

theorem test_witness_FeedByteFrame : ∃ t, exec (.feedByte 0xFD) lastByte = .next t := exists_next (by decide)

theorem test_witness_OutputsOfOneOperation : (∃ t, exec (.feedByte 0xFD) lastByte = .next t) ∧
    (∃ t, exec .tick pending = .next t) ∧ (∃ t, exec (.send 0x01 []) State.reset = .next t) ∧
    ∃ t, exec (.send 0x01 []) pending = .next t :=
  ⟨exists_next (by decide), exists_next (by decide), exists_next (by decide), exists_next (by decide)⟩

theorem test_witness_EncodedFrameIsReceived :
    let s := { pending with rxState := .seekSync2 }
    pending.cfg.legal = true ∧ (List.replicate 32 (0 : Byte)).length ≤ pending.cfg.maxPayload ∧
    pending.rxState = .seekSync1 ∧ s.rxState = .seekSync2 ∧ s.cfg.sync1 ≠ s.cfg.sync2 := by decide

theorem test_witness_GarbageWithoutMarkerIsAbsorbed : pending.cfg.legal = true ∧
    pending.cfg.sync1 ≠ pending.cfg.sync2 ∧ pending.rxState = .seekSync1 ∧
    ¬ [pending.cfg.sync1, pending.cfg.sync2] <:+: [0x55, 0xAA, 0x13, 0xAA] := by decide

theorem test_witness_AckFrameCompletes : pending.cfg.legal = true ∧ pending.rxState = .seekSync1 ∧
    wellFormed pending.cfg (.frameAck 0x02 [] [0x06]) = true ∧ pending.rcState = .sent ∧
    State.reset.cfg.legal = true ∧ State.reset.rxState = .seekSync1 ∧ State.reset.rcState = .idle := by decide

theorem test_witness_NackFrameCompletes : pending.cfg.legal = true ∧ pending.rxState = .seekSync1 ∧
    wellFormed pending.cfg (.frameNack 0x02 [] [0x15]) = true ∧ pending.rcState = .sent ∧ pending.ptRetries ≠ 0 ∧
    memRead pending.ptFrame 0 pending.ptFlen.toNat = some [0xAA, 0x55, 0x02, 0x01, 0x01] ∧
    State.ptRetries { pending with ptRetries := 0 } = 0 := by decide

theorem test_witness_OrdinaryFrameCompletes : pending.cfg.legal = true ∧ pending.rxState = .seekSync1 ∧
    wellFormed pending.cfg (.frameOrdinary 0x22 0x7F (List.replicate 32 0) [0x7F]) = true := by decide

theorem test_witness_InvalidFrameIsDropped : pending.cfg.legal = true ∧ pending.rxState = .seekSync1 ∧
    (lengthOk pending.cfg 0x02 [] = true ∧ [(0x07 : Byte)].length = pending.cfg.ckSize ∧
      checksumOk pending.cfg 0x06 [] [0x07] = false) ∧
    ((0x01 : Byte).toNat < pending.cfg.minBody ∧ pending.cfg.maxBody < (0x23 : Byte).toNat) := by decide

theorem test_witness_FrameInstructionsFrame : ∃ t, exec (.frameAck 0x02 [] [0x06]) midBody = .next t :=
  exists_next (by decide)

theorem test_witness_SendFollowsItsRule : (pending.cfg.legal = true ∧ pending.rcState = .sent) ∧
    (State.reset.cfg.legal = true ∧ State.reset.rcState = .idle ∧
      State.reset.cfg.maxPayload < (List.replicate 33 (0 : Byte)).length ∧
      (List.replicate 32 (0 : Byte)).length ≤ State.reset.cfg.maxPayload) := by decide

theorem test_witness_AckArmResolvesThePendingSend : pending.rcState = .sent ∧ State.reset.rcState = .idle := by decide

theorem test_witness_OrdinaryArmDeliversTheFrame : (0x00 : Byte) ≠ pending.cfg.ackCmd ∧
    (0x00 : Byte) ≠ pending.cfg.nackCmd := by decide

theorem test_witness_TickFollowsItsRule : (State.reset.cfg.legal = true ∧ State.reset.rcState = .idle) ∧
    (pending.cfg.legal = true ∧ pending.rcState = .sent ∧ expired pending.cfg 1099 pending.ptDeadline = false ∧
      expired pending.cfg (pending.portT % 2 ^ pending.cfg.wTime) pending.ptDeadline = true ∧ pending.ptRetries ≠ 0 ∧
      memRead pending.ptFrame 0 pending.ptFlen.toNat = some [0xAA, 0x55, 0x02, 0x01, 0x01] ∧
      State.ptRetries { pending with ptRetries := 0 } = 0) := by decide

theorem test_witness_ExpiredIsThePlainComparison : Config.default.legal = true ∧
    2 ^ 32 + 36 < 2 ^ 32 - 1 + 2 ^ (Config.default.wTime - 1) ∧
    2 ^ 32 - 1 < 2 ^ 32 + 36 + 2 ^ (Config.default.wTime - 1) := by decide

theorem test_witness_OneTickRetriesOnce : ∃ t, pending.cfg.legal = true ∧ pending.rcState = .sent ∧
    pending.ptRetries ≠ 0 ∧ exec .tick pending = .next t ∧ t.tx ≠ pending.tx :=
  ⟨_, by decide, by decide, by decide, rfl, by decide⟩

theorem test_witness_AbortClearsThePendingSendOnly : (∃ t, exec .abort pending = .next t) ∧
    pending.cfg.legal = true ∧ ([] : List Byte).length ≤ pending.cfg.maxPayload :=
  ⟨exists_next (by decide), by decide, by decide⟩

theorem test_witness_SendCtrlEmitsAControlFrame : pending.cfg.legal = true := by decide

theorem test_witness_ControllerOperationsFrame : (∃ t, exec (.send 0x01 []) State.reset = .next t) ∧
    (∃ t, exec .tick pending = .next t) ∧ (∃ t, exec .abort pending = .next t) ∧
    ∃ t, exec (.sendCtrl .ack) pending = .next t :=
  ⟨exists_next (by decide), exists_next (by decide), exists_next (by decide), exists_next (by decide)⟩

/-- The state with the last byte of an ordinary frame next on the inbound stream. -/
def lastByteNext : State := { lastByte with inq := [.perform 1100 (.op 0x2 [0xFD])] }

theorem lastByteNext_inv : Inv lastByteNext where
  legal := lastByte_inv.legal
  rx := lastByte_inv.rx
  pt := lastByte_inv.pt
  buf := lastByte_inv.buf
  retries := lastByte_inv.retries
  deadline := lastByte_inv.deadline

theorem test_witness_StepKeepsTheInvariant : Inv lastByteNext ∧ ∃ t, step lastByteNext = .next t :=
  ⟨lastByteNext_inv, exists_next (by decide)⟩

theorem test_witness_EveryInstructionCompletes : Inv midBody := midBody_inv

theorem test_witness_ConfigFixedAndOutputsAppendOnly : ∃ t, step lastByteNext = .next t := exists_next (by decide)

theorem test_witness_EveryEmittedFrameIsEncoded :
    let s := { midBody with inq := [.perform 1100 (.op 0x3 [])] }
    Inv s ∧ ∃ t, step s = .next t ∧ [0xAA, 0x55, 0x02, 0x01, 0x01] ∈ t.tx.drop s.tx.length :=
  ⟨⟨midBody_inv.legal, midBody_inv.rx, midBody_inv.pt, midBody_inv.buf, midBody_inv.retries, midBody_inv.deadline⟩,
    _, rfl, by decide⟩

theorem test_witness_DeliveredFramesAreOrdinary :
    ∃ t, step lastByteNext = .next t ∧ .frameDelivered 0x02 [0xFF] ∈ t.ev.drop lastByteNext.ev.length :=
  ⟨_, rfl, by decide⟩

theorem test_witness_ResolvedExactlyOnLeavingSent : (∃ t, exec (.frameAck 0x02 [] [0x06]) pending = .next t) ∧
    ∃ t, exec .abort pending = .next t := ⟨exists_next (by decide), exists_next (by decide)⟩

theorem test_witness_OnlyAnAcceptedSendEntersSent : ∃ t, exec (.send 0x01 []) State.reset = .next t ∧
    State.reset.rcState = .idle ∧ t.rcState = .sent ∧ t.res = State.reset.res ++ [.ok] :=
  ⟨_, rfl, by decide, by decide, by decide⟩

/-- An idle state in the middle of a frame. -/
def idleMidBody : State := { midBody with rcState := .idle, portT := 0 }

theorem idleMidBody_inv : Inv idleMidBody where
  legal := by decide
  rx := fun _ => by decide
  pt := fun h => by cases h
  buf := ⟨by decide, by decide, by decide, by decide⟩
  retries := by decide
  deadline := by decide

theorem test_witness_RetryExhaustionBound : Inv idleMidBody ∧ idleMidBody.rcState = .idle ∧
    ([] : List Byte).length ≤ idleMidBody.cfg.maxPayload ∧ (∃ u, exec (.send 0x01 []) idleMidBody = .next u) ∧
    List.IsChain (fun a b => a ≤ b ∧ b - a ≤ 2 ^ (idleMidBody.cfg.wTime - 1) - idleMidBody.cfg.timeout)
      (idleMidBody.portT :: [100, 200, 300, 400]) :=
  ⟨idleMidBody_inv, by decide, by decide, exists_next (by decide), by decide⟩

theorem test_witness_TraceIsInvisible : ∃ t, exec (.feedByte 0x00) pending = .next t := exists_next (by decide)

theorem test_witness_BytesAndControllerOperationsCommute : ¬ (midBody.rxState = .readBody ∧ midBody.rxRemain = 1) ∧
    ∃ t, execAll [.feedByte 0xAA, .tick] midBody = .next t := ⟨by decide, exists_next (by decide)⟩

theorem test_witness_OneExchangeDeliversAndAcknowledges :
    let b := { pending with cfg := { Config.default with maxPayload := 0, maxRetries := 0, autoAck := true } }
    State.reset.cfg.legal = true ∧ b.cfg.legal = true ∧
    (b.cfg.sync1 = State.reset.cfg.sync1 ∧ b.cfg.sync2 = State.reset.cfg.sync2 ∧ b.cfg.ckAlg = State.reset.cfg.ckAlg ∧
      b.cfg.crc8 = State.reset.cfg.crc8 ∧ b.cfg.crc16 = State.reset.cfg.crc16 ∧
      b.cfg.ackCmd = State.reset.cfg.ackCmd ∧ b.cfg.nackCmd = State.reset.cfg.nackCmd) ∧
    (0x01 : Byte) ≠ State.reset.cfg.ackCmd ∧ (0x01 : Byte) ≠ State.reset.cfg.nackCmd ∧
    ([] : List Byte).length ≤ State.reset.cfg.maxPayload ∧ ([] : List Byte).length ≤ b.cfg.maxPayload ∧
    State.reset.rcState = .idle ∧ State.reset.rxState = .seekSync1 ∧ b.rxState = .seekSync1 := by decide

end Sys2Proof.Tests
end

section
/-! PROOFS. The wire layout of an encoded frame (20_memory.md R52, 41_frame_codec.md R121). -/

namespace Sys2Proof.Machine

/-- The fields of a candidate frame stand on the wire in the order of R52. -/
theorem wireBytes_eq_append (cfg : Config) (length command : Byte) (payload checksum : List Byte) :
    wireBytes cfg length command payload checksum
      = [cfg.sync1, cfg.sync2] ++ [length] ++ [command] ++ payload ++ checksum := by
  simp [wireBytes]

/-- The size of an encoded frame: its length byte counts all but the two markers and itself (R121). -/
theorem length_of_encodeFrame_eq_some {cfg : Config} {command : Byte} {payload f : List Byte}
    (hp : payload.length ≤ cfg.maxPayload) (hf : encodeFrame cfg command payload = some f) :
    f.length = (1 + payload.length + cfg.ckSize) + 3 := by
  obtain rfl : frameBytes cfg command payload = f := Option.some.inj ((encodeFrame_of_le command hp).symm.trans hf)
  rw [frameBytes_length]; omega

/-- Settles O6: an oversized payload takes the error branch of `encodeFrame`; otherwise the length byte and the checksum
field are the ones `frameBytes` writes, and a legal CFG keeps the length byte from being truncated. -/
theorem encodeLaysOutTheFields : Obligations.EncodeLaysOutTheFields := by
  intro cfg command payload hlegal
  refine ⟨encodeFrame_of_gt command, fun hp => ?_⟩
  have hlen := lengthByte_toNat hlegal hp
  refine ⟨BitVec.ofNat 8 (1 + payload.length + cfg.ckSize), checksumBytes cfg (compute cfg (command :: payload)),
    hlen, checksumBytes_length cfg _, rfl, ?layout, fun f hf => ?size⟩
  case layout => rw [encodeFrame_of_le command hp, frameBytes, wireBytes_eq_append]
  case size => rw [hlen]; exact length_of_encodeFrame_eq_some hp hf

end Sys2Proof.Machine
end

section
/-! PROOFS. The XOR8 policy as an algebraic fold (40_checksum.md R102) and `verify` as an equality (R107). -/

namespace Sys2Proof.Machine

@[simp] theorem xor8_nil : xor8 [] = 0 := rfl

@[simp] theorem xor8_singleton (b : Byte) : xor8 [b] = b := BitVec.zero_xor

/-- The fold splits over concatenation, so its value is the xor of the values of the parts: the snoc, cancellation
and zero-byte clauses of R102 follow from it. -/
theorem xor8_append (xs ys : List Byte) : xor8 (xs ++ ys) = xor8 xs ^^^ xor8 ys :=
  calc xor8 (xs ++ ys) = ys.foldl (fun c b => c ^^^ b) (xor8 xs) := List.foldl_append
    _ = ys.foldl (fun c b => c ^^^ b) (xor8 xs ^^^ 0) := by rw [BitVec.ofNat_eq_ofNat, BitVec.xor_zero]
    _ = xor8 xs ^^^ xor8 ys := List.foldl_assoc

theorem xor8_cons (b : Byte) (bs : List Byte) : xor8 (b :: bs) = b ^^^ xor8 bs := by
  rw [← List.singleton_append, xor8_append, xor8_singleton]

theorem xor8_snoc (b : Byte) (bs : List Byte) : xor8 (bs ++ [b]) = xor8 bs ^^^ b := by
  rw [xor8_append, xor8_singleton]

/-- Two neighbouring bytes may be exchanged (xor is commutative and associative), so no reordering changes the fold. -/
theorem xor8_eq_of_perm {xs ys : List Byte} (h : xs.Perm ys) : xor8 xs = xor8 ys := h.foldl_eq 0

theorem xor8_pair_self (b : Byte) : xor8 [b, b] = 0 := by
  rw [xor8_cons, xor8_singleton, BitVec.xor_self]; rfl

theorem xor8_append_zero_cons (xs ys : List Byte) : xor8 (xs ++ 0 :: ys) = xor8 (xs ++ ys) := by
  have hzero : xor8 (0 :: ys) = xor8 ys := (xor8_cons 0 ys).trans BitVec.zero_xor
  rw [xor8_append, hzero, ← xor8_append]

/-- Settles O1: the permutation clause is the order independence of the fold; the other general clauses follow
from the concatenation law `xor8_append`. -/
theorem xor8FoldLaws : Obligations.Xor8FoldLaws :=
  ⟨xor8_nil, xor8_snoc, xor8_singleton, fun _ _ => xor8_eq_of_perm, xor8_pair_self, xor8_append_zero_cons, by decide⟩

theorem verify_eq_true_iff (cfg : Config) (bytes : List Byte) (claimed : BitVec 16) :
    verify cfg bytes claimed = true ↔ compute cfg bytes = claimed := beq_iff_eq

theorem verify_eq_false_iff (cfg : Config) (bytes : List Byte) (claimed : BitVec 16) :
    verify cfg bytes claimed = false ↔ compute cfg bytes ≠ claimed := beq_eq_false_iff_ne

theorem compute_of_xor8 {cfg : Config} (h : cfg.ckAlg = .xor8) (bytes : List Byte) :
    compute cfg bytes = (xor8 bytes).setWidth 16 := by
  simp only [compute, h]

/-- Settles O3: `verify` is the equality for every policy; under XOR8 the two worked sequences have the values 01 and
00. -/
theorem verifyComparesTheFullValue : Obligations.VerifyComparesTheFullValue := by
  refine ⟨verify_eq_true_iff, fun cfg h => ⟨?accepted, ?rejected⟩⟩
  case accepted => rw [verify_eq_true_iff, compute_of_xor8 h]; decide
  case rejected => rw [verify_eq_false_iff, compute_of_xor8 h]; decide

end Sys2Proof.Machine
end

section
/-! PROOFS. Reading an encoded frame back: the fields of R76 on the bytes of R52, and the round trip of R125. -/

namespace Sys2Proof.Machine

@[simp] theorem spanLength_wireBytes (cfg : Config) (l c : Byte) (p ck : List Byte) :
    spanLength (wireBytes cfg l c p ck) = l := rfl

@[simp] theorem spanCommand_wireBytes (cfg : Config) (l c : Byte) (p ck : List Byte) :
    spanCommand (wireBytes cfg l c p ck) = c := rfl

/-- The checksum field follows the four header bytes and the payload. -/
theorem byteAt_wireBytes_checksum (cfg : Config) (l c : Byte) (p ck : List Byte) {n i : Nat}
    (hn : n = p.length + i + 4) : byteAt (wireBytes cfg l c p ck) n = byteAt ck i := by
  subst hn
  show (p ++ ck).getD (p.length + i) 0 = ck.getD i 0
  rw [List.getD_append_right _ _ _ _ (Nat.le_add_right _ _), Nat.add_sub_cancel_left]

/-- One checksum byte holds every value below 2^8. -/
theorem setWidth_lowByte_of_lt {v : BitVec 16} (hv : v.toNat < 2 ^ 8) : (v.extractLsb' 0 8).setWidth 16 = v := by
  apply BitVec.eq_of_toNat_eq
  simp only [BitVec.toNat_setWidth, BitVec.extractLsb'_toNat, Nat.shiftRight_zero]
  omega

/-- Two checksum bytes, the most significant first, hold every 16-bit value (R53). -/
theorem highByte_or_lowByte (v : BitVec 16) :
    (v.extractLsb' 8 8).setWidth 16 <<< 8 ||| (v.extractLsb' 0 8).setWidth 16 = v := by
  ext i hi
  rcases lt_or_ge i 8 with hlow | hhigh
  · simp [hlow, BitVec.getLsbD_eq_getElem hi]
  · have hindex : 8 + (i - 8) = i := by omega
    have hbyte : i - 8 < 8 := by omega
    simp [not_lt.2 hhigh, hindex, hbyte, BitVec.getLsbD_eq_getElem hi]

/-- A value of `compute` has 8 * CK_SIZE bits (R100; log 15). -/
theorem compute_toNat_lt (cfg : Config) (bytes : List Byte) : (compute cfg bytes).toNat < 2 ^ (8 * cfg.ckSize) := by
  have hbyte (b : Byte) : (b.setWidth 16).toNat < 2 ^ 8 := by
    rw [BitVec.toNat_setWidth_of_le (by decide)]; exact b.isLt
  unfold compute Config.ckSize
  cases cfg.ckAlg with
  | xor8 => exact hbyte _
  | crc8 => exact hbyte _
  | crc16 => exact BitVec.isLt _

section
variable {cfg : Config} {l : Byte} {p : List Byte} (c : Byte) (ck : List Byte)
  (hl : l.toNat = 1 + p.length + cfg.ckSize)
include hl

/-- `payload_len` (R76) inverts the length rule of R72. -/
theorem spanPayloadLen_wireBytes : spanPayloadLen cfg (wireBytes cfg l c p ck) = p.length := by
  rw [spanPayloadLen, spanLength_wireBytes]; omega

theorem spanPayload_wireBytes : spanPayload cfg (wireBytes cfg l c p ck) = p := by
  rw [spanPayload, spanPayloadLen_wireBytes c ck hl, slice, show 3 + p.length + 1 - 4 = p.length by omega]
  exact List.take_left

theorem spanCovered_wireBytes : spanCovered cfg (wireBytes cfg l c p ck) = c :: p := by
  rw [spanCovered, spanPayloadLen_wireBytes c ck hl, slice, show 3 + p.length + 1 - 3 = (c :: p).length by simp; omega]
  exact List.take_left (l₁ := c :: p)

/-- A frame laid out with the length rule of R72 and a checksum field of CK_SIZE bytes meets the precondition of
`decode` (R124). -/
theorem delimited_wireBytes {ck : List Byte} (hck : ck.length = cfg.ckSize) (hp : p.length ≤ cfg.maxPayload) :
    delimited cfg (wireBytes cfg l c p ck) = true := by
  have hmin : cfg.minBody ≤ l.toNat := by unfold Config.minBody; omega
  have hmax : l.toNat ≤ cfg.maxBody := by unfold Config.maxBody; omega
  have hsize : (wireBytes cfg l c p ck).length = l.toNat + 3 := by rw [wireBytes_length]; omega
  have hsync1 : byteAt (wireBytes cfg l c p ck) 0 = cfg.sync1 := rfl
  have hsync2 : byteAt (wireBytes cfg l c p ck) 1 = cfg.sync2 := rfl
  simp [delimited, hmin, hmax, hsize, hsync1, hsync2]

/-- The claimed value read from the wire (R76) is the value whose checksum bytes (R53) were written, if it has no more
bits than the field. -/
theorem spanClaimed_wireBytes_checksumBytes {v : BitVec 16} (hv : v.toNat < 2 ^ (8 * cfg.ckSize)) :
    spanClaimed cfg (wireBytes cfg l c p (checksumBytes cfg v)) = v := by
  cases hAlg : cfg.ckAlg with
  | xor8 | crc8 =>
    have hsize : cfg.ckSize = 1 := by rw [Config.ckSize, hAlg]; rfl
    have hlow : byteAt (wireBytes cfg l c p (checksumBytes cfg v)) (l.toNat + 2) = v.extractLsb' 0 8 := by
      rw [byteAt_wireBytes_checksum (i := 0) (hn := by omega), checksumBytes, hAlg]; rfl
    rw [hsize] at hv
    simp only [spanClaimed, hAlg, spanLength_wireBytes, hlow]
    exact setWidth_lowByte_of_lt hv
  | crc16 =>
    have hsize : cfg.ckSize = 2 := by rw [Config.ckSize, hAlg]; rfl
    have hhigh : byteAt (wireBytes cfg l c p (checksumBytes cfg v)) (l.toNat + 1) = v.extractLsb' 8 8 := by
      rw [byteAt_wireBytes_checksum (i := 0) (hn := by omega), checksumBytes, hAlg]; rfl
    have hlow : byteAt (wireBytes cfg l c p (checksumBytes cfg v)) (l.toNat + 2) = v.extractLsb' 0 8 := by
      rw [byteAt_wireBytes_checksum (i := 1) (hn := by omega), checksumBytes, hAlg]; rfl
    simp only [spanClaimed, hAlg, spanLength_wireBytes, hhigh, hlow]
    exact highByte_or_lowByte v

end

/-- `decode` accepts a span inside its precondition whose claimed value is the checksum of its covered bytes (R123). -/
theorem decodeSpan_of_checksum_eq {cfg : Config} {s : List Byte} (hd : delimited cfg s = true)
    (hck : compute cfg (spanCovered cfg s) = spanClaimed cfg s) :
    decodeSpan cfg s = .frame { command := spanCommand s, payload := spanPayload cfg s } := by
  rw [decodeSpan, if_pos hd, if_pos ((verify_eq_true_iff _ _ _).2 hck)]

/-- Settles O7: each field of R76 read from the bytes `frameBytes` lays out is the field written, so the checksum
claimed is the checksum of the covered bytes. -/
theorem encodeThenDecodeGivesTheFrame : Obligations.EncodeThenDecodeGivesTheFrame := by
  intro cfg command payload hlegal hp
  have hl := lengthByte_toNat hlegal hp
  have hdelimited : delimited cfg (frameBytes cfg command payload) = true :=
    delimited_wireBytes command hl (checksumBytes_length cfg _) hp
  have hcovered : spanCovered cfg (frameBytes cfg command payload) = command :: payload :=
    spanCovered_wireBytes command _ hl
  have hclaimed : spanClaimed cfg (frameBytes cfg command payload) = compute cfg (command :: payload) :=
    spanClaimed_wireBytes_checksumBytes command hl (compute_toNat_lt cfg _)
  have hpayload : spanPayload cfg (frameBytes cfg command payload) = payload := spanPayload_wireBytes command _ hl
  refine ⟨_, encodeFrame_of_le command hp, hdelimited, hcovered, hclaimed, ?decoded⟩
  rw [decodeSpan_of_checksum_eq hdelimited (by rw [hcovered, hclaimed]), hpayload]
  rfl

end Sys2Proof.Machine
end

section
/-! PROOFS. The search for the start marker: one equation per row of the transition table for SEEK_SYNC1 and SEEK_SYNC2
(42_receiver_sync.md R141 to R143). -/

namespace Sys2Proof.Machine

theorem exec_feedByte_of_legal {s : State} (h : s.cfg.legal = true) (b : Byte) :
    exec (.feedByte b) s = feedByte b s := withLegalCfg_of_legal h _

theorem feedByte_of_seekSync1 {s : State} (h : s.rxState = .seekSync1) (b : Byte) :
    feedByte b s = .next (seekSync1 b s) := by simp only [feedByte, h]

theorem feedByte_of_seekSync2 {s : State} (h : s.rxState = .seekSync2) (b : Byte) :
    feedByte b s = .next (seekSync2 b s) := by simp only [feedByte, h]

theorem feedByte_of_readBody {s : State} (h : s.rxState = .readBody) (b : Byte) :
    feedByte b s = readBody b s := by simp only [feedByte, h]

theorem seekSync1_of_eq_sync1 {b : Byte} {s : State} (h : b = s.cfg.sync1) :
    seekSync1 b s = { s with rxState := .seekSync2 } := if_pos h

theorem seekSync1_of_ne_sync1 {b : Byte} {s : State} (h : b ≠ s.cfg.sync1) :
    seekSync1 b s = { s with trace := s.trace ++ [.syncLost] } := if_neg h

theorem seekSync2_of_eq_sync2 {b : Byte} {s : State} (h : b = s.cfg.sync2) :
    seekSync2 b s = { s with rxState := .readLength } := if_pos h

/-- The byte that is not SYNC2 is examined again as a first marker byte, and is one (R143). -/
theorem seekSync2_of_eq_sync1 {b : Byte} {s : State} (h2 : b ≠ s.cfg.sync2) (h1 : b = s.cfg.sync1) :
    seekSync2 b s = { s with rxState := .seekSync2, trace := s.trace ++ [.syncLost] } :=
  (if_neg h2).trans (if_pos h1)

theorem seekSync2_of_ne {b : Byte} {s : State} (h2 : b ≠ s.cfg.sync2) (h1 : b ≠ s.cfg.sync1) :
    seekSync2 b s = { s with rxState := .seekSync1, trace := s.trace ++ [.syncLost] } :=
  (if_neg h2).trans (if_neg h1)

/-- Naming the receiver's state in an update that does not move it changes nothing. -/
theorem set_rxState_and_trace_of_eq {s : State} {r : RxState} (h : s.rxState = r) (cs : List Condition) :
    { s with rxState := r, trace := cs } = { s with trace := cs } := by rw [← h]

theorem exec_feedByte_sync2 {s : State} {b : Byte} (hlegal : s.cfg.legal = true) (hstate : s.rxState = .seekSync2)
    (h2 : b = s.cfg.sync2) : exec (.feedByte b) s = .next { s with rxState := .readLength } := by
  rw [exec_feedByte_of_legal hlegal, feedByte_of_seekSync2 hstate, seekSync2_of_eq_sync2 h2]

theorem execAll_feeds_cons (b : Byte) (bs : List Byte) (s : State) :
    execAll (feeds (b :: bs)) s = andThen (exec (.feedByte b) s) (execAll (feeds bs)) := rfl

/-- Settles O21: each clause is one row of the transition table. After a SYNC1 in SEEK_SYNC2 the receiver is still in
SEEK_SYNC2, so the SYNC2 that follows completes the marker. -/
theorem seekStatesFollowTheirRules : Obligations.SeekStatesFollowTheirRules := by
  intro s b hlegal
  have hexec := exec_feedByte_of_legal hlegal
  refine ⟨fun hstate => ⟨fun h1 => ?match1, fun h1 => ?miss1⟩,
    fun hstate => ⟨fun h2 => ?match2, fun h2 h1 => ?again, fun h2 h1 => ?miss2⟩⟩
  case match1 => rw [hexec, feedByte_of_seekSync1 hstate, seekSync1_of_eq_sync1 h1]
  case miss1 => rw [hexec, feedByte_of_seekSync1 hstate, seekSync1_of_ne_sync1 h1]
  case match2 => exact exec_feedByte_sync2 hlegal hstate h2
  case miss2 => rw [hexec, feedByte_of_seekSync2 hstate, seekSync2_of_ne h2 h1]
  case again =>
    have hstay : exec (.feedByte b) s = .next { s with trace := s.trace ++ [.syncLost] } := by
      rw [hexec, feedByte_of_seekSync2 hstate, seekSync2_of_eq_sync1 h2 h1, set_rxState_and_trace_of_eq hstate]
    have hmarker : exec (.feedByte s.cfg.sync2) { s with trace := s.trace ++ [.syncLost] }
        = .next { s with rxState := .readLength, trace := s.trace ++ [.syncLost] } :=
      exec_feedByte_sync2 (s := { s with trace := _ }) hlegal hstate rfl
    exact ⟨hstay, by rw [execAll_feeds_cons, hstay, andThen_next, execAll_feeds_cons, hmarker]; rfl⟩

end Sys2Proof.Machine
end

section
/-! PROOFS. State READ_BODY (42_receiver_sync.md R145), and that TICK leaves the ReceiverContext alone. -/

namespace Sys2Proof.Machine

/-- `s` with a body byte stored and counted, before what follows it (R145). -/
def storeBodyByte (b : Byte) (s : State) : State :=
  { s with rxBuf := writeByte s.rxBuf (rxIndex s) b, rxRemain := s.rxRemain - 1 }

theorem readByte_storeBodyByte_same (b : Byte) (s : State) :
    readByte (storeBodyByte b s).rxBuf (rxIndex s) = some b := readByte_writeByte_same _ _ _

theorem readByte_storeBodyByte_other (b : Byte) (s : State) {a : Nat} (h : a ≠ rxIndex s) :
    readByte (storeBodyByte b s).rxBuf a = readByte s.rxBuf a := readByte_writeByte_other _ _ h

/-- A byte is still due, so the count goes down without wrapping. -/
theorem storeBodyByte_rxRemain_toNat (b : Byte) {s : State} (h : 1 ≤ s.rxRemain.toNat) :
    (storeBodyByte b s).rxRemain.toNat = s.rxRemain.toNat - 1 :=
  BitVec.toNat_sub_of_le (BitVec.le_def.2 h)

/-- While a byte is due, the bytes stored so far are fewer than RX_LEN (R25). -/
theorem rxIndex_lt_rxLen {s : State} (hpos : 1 ≤ s.rxRemain.toNat) (hle : s.rxRemain.toNat ≤ s.rxLen.toNat) :
    rxIndex s < s.rxLen.toNat := Nat.sub_lt_self hpos hle

/-- READ_BODY with its counts in range: the byte is stored whatever its value, and VALIDATE follows the last one. -/
theorem readBody_of_inRange (b : Byte) {s : State} (hpos : 1 ≤ s.rxRemain.toNat)
    (hle : s.rxRemain.toNat ≤ s.rxLen.toNat) (hindex : rxIndex s < s.cfg.maxBody) :
    readBody b s = if s.rxRemain = 1 then validate (storeBodyByte b s) else .next (storeBodyByte b s) := by
  have hcounts : ¬ (s.rxRemain = 0 ∨ s.rxLen.toNat < s.rxRemain.toNat) := by
    rintro (h | h)
    · simp [h] at hpos
    · exact hle.not_gt h
  have hstore : memWrite s.cfg.maxBody s.rxBuf (rxIndex s) [b] = some (writeByte s.rxBuf (rxIndex s) b) :=
    memWrite_of_le s.rxBuf hindex
  have hlast (h : s.rxRemain = 1) : storeBodyByte b s
      = { s with rxBuf := writeByte s.rxBuf (rxIndex s) b, rxRemain := 0 } := by rw [storeBodyByte, h]; rfl
  simp only [readBody, if_neg hcounts, hstore]
  split
  · next h => rw [hlast h]
  · rfl

theorem attemptFailed_sameRx {s t : State} (h : attemptFailed s = .next t) : SameRx s t := by
  rcases attemptFailed_next h with ⟨-, rfl⟩ | ⟨-, hretry⟩
  · exact ⟨rfl, rfl, rfl, rfl⟩
  · obtain ⟨f, -, rfl⟩ := retry_next hretry
    exact ⟨rfl, rfl, rfl, rfl⟩

/-- TICK does not move the receiver: the receiver has no timeout (R145). -/
theorem exec_tick_sameRx {s t : State} (h : exec .tick s = .next t) : SameRx s t := by
  rcases tick_next (withLegalCfg_next h).2 with ⟨-, -, hfailed⟩ | ⟨-, rfl⟩
  · exact attemptFailed_sameRx hfailed
  · exact ⟨rfl, rfl, rfl, rfl⟩

/-- Settles O23: the ReceiverContext invariant puts the counts of READ_BODY in range, so the byte is stored
(`readBody_of_inRange`); the state reached is `storeBodyByte b s`. -/
theorem readBodyStoresEveryByte : Obligations.ReadBodyStoresEveryByte := by
  intro s b hlegal hinv hstate
  obtain ⟨-, hmax, hpos, hle, -⟩ := hinv hstate
  have hlt := rxIndex_lt_rxLen hpos hle
  have hindex : rxIndex s < s.cfg.maxBody := hlt.trans_le hmax
  have hexec : exec (.feedByte b) s
      = if s.rxRemain = 1 then validate (storeBodyByte b s) else .next (storeBodyByte b s) := by
    rw [exec_feedByte_of_legal hlegal, feedByte_of_readBody hstate, readBody_of_inRange b hpos hle hindex]
  refine ⟨hindex, Nat.le_sub_one_of_lt hlt, storeBodyByte b s, rfl, storeBodyByte_rxRemain_toNat b hpos,
    readByte_storeBodyByte_same b s, fun _ => readByte_storeBodyByte_other b s, fun hmore => ?middle,
    fun hlast => ?last, fun time _ htick => exec_tick_sameRx (s := { s with portT := time }) htick⟩
  case middle =>
    have hne : s.rxRemain ≠ 1 := by rintro h; simp [h] at hmore
    rw [hexec, if_neg hne]
  case last => rw [hexec, if_pos hlast]

end Sys2Proof.Machine
end

section
/-! PROOFS. The Reliability Controller (43_reliability.md): one equation for each outcome of SEND, TICK, ABORT and of
the arms of `onFrame`. -/

namespace Sys2Proof.Machine

theorem ne_sent_of_idle {s : State} (h : s.rcState = .idle) : s.rcState ≠ .sent := by simp [h]

theorem exec_send_of_legal {s : State} (h : s.cfg.legal = true) (c : Byte) (p : List Byte) :
    exec (.send c p) s = send c p s := withLegalCfg_of_legal h _

theorem exec_tick_of_legal {s : State} (h : s.cfg.legal = true) : exec .tick s = tick s := withLegalCfg_of_legal h _

theorem exec_abort_of_legal {s : State} (h : s.cfg.legal = true) : exec .abort s = .next (abort s) :=
  withLegalCfg_of_legal h _

/-! ### SEND (R172) -/

/-- LinkBusy is tested first, so the payload does not matter (60_exceptions.md R221). -/
theorem send_of_sent {s : State} (h : s.rcState = .sent) (c : Byte) (p : List Byte) :
    send c p s = .next (raise .linkBusy s) := if_pos h

theorem send_of_payloadTooLarge {s : State} (h : s.rcState = .idle) (c : Byte) {p : List Byte}
    (hp : s.cfg.maxPayload < p.length) : send c p s = .next (raise .payloadTooLarge s) := by
  simp only [send, if_neg (ne_sent_of_idle h), encodeFrame_of_gt c hp]

/-- An encoded frame fits PT_FRAME (10_state.md R27). -/
theorem frameBytes_length_le_maxFrame (cfg : Config) (c : Byte) {p : List Byte} (hp : p.length ≤ cfg.maxPayload) :
    (frameBytes cfg c p).length ≤ cfg.maxFrame := by
  rw [frameBytes_length, Config.maxFrame, Config.overhead]; omega

theorem send_of_idle {s : State} (h : s.rcState = .idle) (c : Byte) {p : List Byte}
    (hp : p.length ≤ s.cfg.maxPayload) :
    send c p s = .next { s with
      res := s.res ++ [.ok], tx := s.tx ++ [frameBytes s.cfg c p],
      ptFrame := writeSpan s.ptFrame 0 (frameBytes s.cfg c p),
      ptFlen := BitVec.ofNat 9 (frameBytes s.cfg c p).length, ptRetries := s.cfg.maxRetries,
      ptDeadline := deadlineFrom s.cfg (now s), rcState := .sent } := by
  have hfits : 0 + (frameBytes s.cfg c p).length ≤ s.cfg.maxFrame := by
    rw [Nat.zero_add]; exact frameBytes_length_le_maxFrame s.cfg c hp
  simp only [send, if_neg (ne_sent_of_idle h), encodeFrame_of_le c hp, memWrite_of_le s.ptFrame hfits]
  rfl

/-- Under a legal CFG the size of an encoded frame fits the nine bits of PT_FLEN. -/
theorem ptFlen_of_frameBytes {cfg : Config} (hlegal : cfg.legal = true) (c : Byte) {p : List Byte}
    (hp : p.length ≤ cfg.maxPayload) :
    (BitVec.ofNat 9 (frameBytes cfg c p).length).toNat = (frameBytes cfg c p).length := by
  obtain ⟨hbound, -⟩ := (legal_iff cfg).1 hlegal
  rw [BitVec.toNat_ofNat, frameBytes_length]
  omega

/-- Settles O36: one clause per outcome of SEND. The accepted frame reads back from PT_FRAME because it was stored
there from index 0, and the store ends at its length. -/
theorem sendFollowsItsRule : Obligations.SendFollowsItsRule := by
  intro s c p hlegal
  rw [exec_send_of_legal hlegal]
  refine ⟨fun hsent => send_of_sent hsent c p, fun hidle hlarge => send_of_payloadTooLarge hidle c hlarge,
    fun hidle hp => ?accepted⟩
  case accepted =>
    exact ⟨frameBytes s.cfg c p, _, encodeFrame_of_le c hp, send_of_idle hidle c hp, rfl,
      ptFlen_of_frameBytes hlegal c hp, memRead_writeSpan_same _ 0 _,
      fun a ha => readByte_writeSpan_outside _ (.inr (by rwa [Nat.zero_add]))⟩

/-! ### TICK (R180) -/

/-- A deadline equal to `now` is expired (R171). -/
theorem expired_self (cfg : Config) (d : Nat) : expired cfg d d = true := by
  simp [expired]

theorem tick_of_idle {s : State} (h : s.rcState = .idle) : tick s = .next s :=
  if_neg fun hc => ne_sent_of_idle h hc.1

theorem tick_of_not_expired {s : State} (h : expired s.cfg (now s) s.ptDeadline = false) : tick s = .next s :=
  if_neg fun hc => by simp [h] at hc

theorem tick_of_expired {s : State} (hsent : s.rcState = .sent)
    (h : expired s.cfg (now s) s.ptDeadline = true) : tick s = attemptFailed s := if_pos ⟨hsent, h⟩

theorem attemptFailed_of_retries_left {s : State} (h : s.ptRetries ≠ 0) : attemptFailed s = retry s := if_neg h

theorem attemptFailed_of_no_retries {s : State} (h : s.ptRetries = 0) :
    attemptFailed s = .next (raise .retriesExhausted s) := if_pos h

/-- Settles O39: TICK does nothing unless a deadline of a pending frame has expired; then the attempt has failed, and
PT_RETRIES says whether a retry or RetriesExhausted follows. -/
theorem tickFollowsItsRule : Obligations.TickFollowsItsRule := by
  refine ⟨expired_self, fun s hlegal => ?_⟩
  rw [exec_tick_of_legal hlegal]
  refine ⟨tick_of_idle, fun _ => tick_of_not_expired, fun hsent hexpired hleft f hread => ?retry,
    fun hsent hexpired hnone => ?exhausted⟩
  case retry => rw [tick_of_expired hsent hexpired, attemptFailed_of_retries_left hleft, retry_of_read hread]; rfl
  case exhausted => rw [tick_of_expired hsent hexpired, attemptFailed_of_no_retries hnone]; rfl

/-! ### The arms of `onFrame` (R174) -/

theorem onFrame_of_ack {f : Frame} {s : State} (h : f.command = s.cfg.ackCmd) : onFrame f s = .next (onAck s) :=
  if_pos h

theorem onFrame_of_ordinary {f : Frame} {s : State} (hack : f.command ≠ s.cfg.ackCmd)
    (hnack : f.command ≠ s.cfg.nackCmd) : onFrame f s = .next (onOrdinary f s) :=
  (if_neg hack).trans (if_neg hnack)

theorem onAck_of_sent {s : State} (h : s.rcState = .sent) :
    onAck s = { s with rcState := .idle, ev := s.ev ++ [.sendResolved .ok] } := if_pos h

theorem onAck_of_idle {s : State} (h : s.rcState = .idle) : onAck s = s := if_neg (ne_sent_of_idle h)

/-- The ACK frame of `auto_ack` (R181) and the event are all the ordinary arm changes (R178). -/
theorem onOrdinary_eq (f : Frame) (s : State) :
    onOrdinary f s = { s with
      tx := if s.cfg.autoAck = true then s.tx ++ [frameBytes s.cfg s.cfg.ackCmd []] else s.tx,
      ev := s.ev ++ [.frameDelivered f.command f.payload] } := by
  unfold onOrdinary
  split <;> rfl

/-- Settles O37: the ACK arm resolves the send where one is pending and ignores the frame otherwise. -/
theorem ackArmResolvesThePendingSend : Obligations.AckArmResolvesThePendingSend := by
  intro s p
  rw [onFrame_of_ack rfl]
  exact ⟨fun hsent => by rw [onAck_of_sent hsent], fun hidle => by rw [onAck_of_idle hidle]⟩

/-- Settles O38: a command that is neither reserved value reaches the ordinary arm. -/
theorem ordinaryArmDeliversTheFrame : Obligations.OrdinaryArmDeliversTheFrame := by
  intro s c p hack hnack
  rw [onFrame_of_ordinary hack hnack, onOrdinary_eq]

/-! ### ABORT (R184) -/

theorem abort_of_idle {s : State} (h : s.rcState = .idle) : abort s = s := by rw [abort, ← h]

/-- Settles O42: ABORT leaves the controller in IDLE with RES as it was, so the SEND after it is accepted
(`send_of_idle`). -/
theorem abortClearsThePendingSendOnly : Obligations.AbortClearsThePendingSendOnly := by
  refine ⟨rfl, fun s hlegal => ?_⟩
  rw [exec_abort_of_legal hlegal]
  refine ⟨rfl, fun hidle => by rw [abort_of_idle hidle], fun t c p ht hp => ?accepted⟩
  case accepted =>
    obtain rfl : abort s = t := Host.Outcome.next.inj ht
    exact ⟨_, (exec_send_of_legal (s := abort s) hlegal c p).trans (send_of_idle rfl c hp), rfl⟩

end Sys2Proof.Machine
end

section
/-! PROOFS. VALIDATE on a full body, and a frame whose checksum does not validate (42_receiver_sync.md R146,
60_exceptions.md R215). -/

namespace Sys2Proof.Machine

/-- The span that VALIDATE rebuilds from a body of RX_LEN bytes meets the precondition of `decode` (R124). -/
theorem delimited_of_body {cfg : Config} {l : Byte} {body : List Byte} (hmin : cfg.minBody ≤ l.toNat)
    (hmax : l.toNat ≤ cfg.maxBody) (hbody : body.length = l.toNat) :
    delimited cfg (cfg.sync1 :: cfg.sync2 :: l :: body) = true := by
  simp [delimited, spanLength, byteAt, hmin, hmax, hbody]

/-- `decode` rejects a span inside its precondition whose claimed value is not the checksum of its covered bytes
(R123). -/
theorem decodeSpan_of_checksum_ne {cfg : Config} {span : List Byte} (hd : delimited cfg span = true)
    (hck : compute cfg (spanCovered cfg span) ≠ spanClaimed cfg span) :
    decodeSpan cfg span = .checksumMismatch := by
  rw [decodeSpan, if_pos hd, if_neg (mt (verify_eq_true_iff _ _ _).1 hck)]

theorem validate_of_checksumMismatch {s : State} {body : List Byte}
    (hread : memRead s.rxBuf 0 s.rxLen.toNat = some body)
    (hspan : decodeSpan s.cfg (s.cfg.sync1 :: s.cfg.sync2 :: s.rxLen :: body) = .checksumMismatch) :
    validate s = .next (raise .checksumMismatch { s with rxState := .seekSync1 }) := by
  simp only [validate, hread, hspan]

/-- The last body byte goes to the last index of the body. -/
theorem storeBodyByte_of_last {s : State} (b : Byte) (hlast : s.rxRemain = 1) :
    storeBodyByte b s = { s with rxBuf := writeByte s.rxBuf (s.rxLen.toNat - 1) b, rxRemain := 0 } := by
  rw [storeBodyByte, rxIndex, hlast]; rfl

/-- With the last byte stored, the whole body reads back. -/
theorem memRead_writeByte_last {m : Memory} {n : Nat} {body : List Byte} (b : Byte) (hn : 1 ≤ n)
    (hbody : memRead m 0 (n - 1) = some body) : memRead (writeByte m (n - 1) b) 0 n = some (body ++ [b]) := by
  have hread : memRead (writeByte m (n - 1) b) 0 (n - 1 + 1) = some (body ++ [b]) := memRead_store_next b hbody
  rwa [Nat.sub_add_cancel hn] at hread

/-- FEEDBYTE of the last body byte stores it and validates in the same operation (R145). -/
theorem exec_feedByte_of_last {s : State} (b : Byte) (hlegal : s.cfg.legal = true) (hinv : RxInv s)
    (hstate : s.rxState = .readBody) (hlast : s.rxRemain = 1) :
    exec (.feedByte b) s
      = validate { s with rxBuf := writeByte s.rxBuf (s.rxLen.toNat - 1) b, rxRemain := 0 } := by
  obtain ⟨-, hmax, hpos, hle, -⟩ := hinv hstate
  rw [exec_feedByte_of_legal hlegal, feedByte_of_readBody hstate,
    readBody_of_inRange b hpos hle ((rxIndex_lt_rxLen hpos hle).trans_le hmax), if_pos hlast,
    storeBodyByte_of_last b hlast]

/-- Settles O24: the last byte completes the body, the span rebuilt from it is delimited, and its wrong checksum takes
VALIDATE to `raise .checksumMismatch`, which only moves the receiver and notes the condition. -/
theorem badChecksumDropsTheFrame : Obligations.BadChecksumDropsTheFrame := by
  intro s b body hlegal hinv hstate hlast hbody span hck
  obtain ⟨hmin, hmax, hpos, hle, -⟩ := hinv hstate
  have hread := memRead_writeByte_last b (hpos.trans hle) hbody
  have hspan : decodeSpan s.cfg span = .checksumMismatch :=
    decodeSpan_of_checksum_ne (delimited_of_body hmin hmax (memRead_length hread)) hck
  rw [exec_feedByte_of_last b hlegal hinv hstate hlast]
  exact validate_of_checksumMismatch (s := { s with rxBuf := _, rxRemain := _ }) hread hspan

end Sys2Proof.Machine
end

section
/-! PROOFS. The decoder and the encoder of instructions (30_encoding.md sections 1 to 4): each inverts the other. -/

namespace Sys2Proof

/-! ### Frames: `decodeWire` reads what `wireBytes` lays out -/

/-- What `decodeWire` accepts: the marker, the length byte, the command, and the bytes the length announces. -/
theorem decodeWire_eq_instr_iff {cfg : Config} {bytes : List Byte} {i : Instr} :
    decodeWire cfg bytes = .instr i ↔ ∃ l c rest, bytes = cfg.sync1 :: cfg.sync2 :: l :: c :: rest ∧
      rest.length = l.toNat - 1 ∧ i = classify cfg l c rest := by
  constructor
  · intro h
    unfold decodeWire at h
    split at h
    · next s0 s1 l c rest =>
      split at h
      · next hsync =>
        obtain ⟨rfl, rfl⟩ := hsync
        split at h
        · next hsize => exact ⟨l, c, rest, rfl, hsize, (Decoded.instr.inj h).symm⟩
        · cases h
      · cases h
    · cases h
  · rintro ⟨l, c, rest, rfl, hsize, rfl⟩
    simp only [decodeWire, and_self, if_true, if_pos hsize]

/-- The class keeps every byte of the frame. -/
theorem encode_classify (cfg : Config) (l c : Byte) (rest : List Byte) :
    encode cfg (classify cfg l c rest) = .wire (cfg.sync1 :: cfg.sync2 :: l :: c :: rest) := by
  have hsplit := List.take_append_drop (l.toNat - 1 - cfg.ckSize) rest
  unfold classify
  split
  · next hack => simp only [encode, Machine.wireBytes, hsplit, hack]
  · split
    · next hnack => simp only [encode, Machine.wireBytes, hsplit, hnack]
    · simp only [encode, Machine.wireBytes, hsplit]

/-- Validity looks at the fields alone: the class adds the command, which the decoder has checked. -/
theorem wellFormed_classify (cfg : Config) (l c : Byte) (rest : List Byte) :
    wellFormed cfg (classify cfg l c rest)
      = (lengthOk cfg l (rest.take (l.toNat - 1 - cfg.ckSize)) &&
          checksumOk cfg c (rest.take (l.toNat - 1 - cfg.ckSize)) (rest.drop (l.toNat - 1 - cfg.ckSize))) := by
  unfold classify
  split
  · next hack => rw [hack]; rfl
  · split
    · next hnack => rw [hnack]; rfl
    · next hack hnack => simp [wellFormed, ordinaryCommand, hack, hnack]

/-- The length field of a valid frame (R72), one fact at a time; the payload is then within its bound. -/
theorem lengthOk_iff {cfg : Config} {l : Byte} {p : List Byte} :
    lengthOk cfg l p = true ↔ l.toNat = 1 + p.length + cfg.ckSize ∧ p.length ≤ cfg.maxPayload := by
  simp only [lengthOk, Bool.and_eq_true, decide_eq_true_eq, and_assoc]
  unfold Config.minBody Config.maxBody
  omega

theorem checksumOk_iff {cfg : Config} {c : Byte} {p ck : List Byte} :
    checksumOk cfg c p ck = true ↔ ck = Machine.checksumBytes cfg (Machine.compute cfg (c :: p)) := decide_eq_true_iff

/-- A checksum field that is right has the size of the policy. -/
theorem checksumOk_length {cfg : Config} {c : Byte} {p ck : List Byte} (h : checksumOk cfg c p ck = true) :
    ck.length = cfg.ckSize := by
  rw [checksumOk_iff.1 h, Machine.checksumBytes_length]

/-- The length byte says where the payload ends, so splitting gives the fields back. -/
theorem decodeWire_wireBytes {cfg : Config} {l c : Byte} {p ck : List Byte} (hl : lengthOk cfg l p = true)
    (hck : checksumOk cfg c p ck = true) :
    decodeWire cfg (Machine.wireBytes cfg l c p ck) = .instr
      (if c = cfg.ackCmd then .frameAck l p ck else if c = cfg.nackCmd then .frameNack l p ck
        else .frameOrdinary l c p ck) := by
  obtain ⟨hlen, -⟩ := lengthOk_iff.1 hl
  have hsize := checksumOk_length hck
  have hpay : l.toNat - 1 - cfg.ckSize = p.length := by omega
  refine decodeWire_eq_instr_iff.2 ⟨l, c, p ++ ck, rfl, ?_, ?_⟩
  · rw [List.length_append]; omega
  · simp only [classify, hpay, List.take_left, List.drop_left]

/-! ### Requests: `decodeOp` reads the operands `encode` lays out -/

theorem ctrlOfCode_eq_some_iff {b : Byte} {k : CtrlKind} : Machine.ctrlOfCode b = some k ↔ b = Machine.ctrlCode k := by
  constructor
  · intro h
    unfold Machine.ctrlOfCode at h
    split at h
    · next hb => cases h; exact hb
    · split at h
      · next hb => cases h; exact hb
      · cases h
  · rintro rfl
    cases k <;> rfl

theorem decodeSend_eq_instr_iff {operands : List Byte} {i : Instr} :
    decodeSend operands = .instr i ↔
      ∃ c l p, operands = c :: l :: p ∧ p.length = l.toNat ∧ i = .send c p := by
  constructor
  · intro h
    unfold decodeSend at h
    split at h
    · next c l p =>
      split at h
      · next hlen => exact ⟨c, l, p, rfl, hlen, (Decoded.instr.inj h).symm⟩
      · cases h
    · cases h
  · rintro ⟨c, l, p, rfl, hlen, rfl⟩
    exact if_pos hlen

theorem decodeFeedByte_eq_instr {operands : List Byte} {i : Instr} (h : decodeFeedByte operands = .instr i) :
    ∃ b, operands = [b] ∧ i = .feedByte b := by
  unfold decodeFeedByte at h
  split at h
  · next b => exact ⟨b, rfl, (Decoded.instr.inj h).symm⟩
  · cases h

theorem decodeSendCtrl_eq_instr {operands : List Byte} {i : Instr} (h : decodeSendCtrl operands = .instr i) :
    ∃ k, operands = [Machine.ctrlCode k] ∧ i = .sendCtrl k := by
  unfold decodeSendCtrl at h
  split at h
  · next b =>
    split at h
    · next k hk => exact ⟨k, by rw [ctrlOfCode_eq_some_iff.1 hk], (Decoded.instr.inj h).symm⟩
    · cases h
  · cases h

theorem decodeBare_eq_instr {code : BitVec 4} {i j : Instr} {operands : List Byte}
    (h : decodeBare code j operands = .instr i) : operands = [] ∧ i = j := by
  unfold decodeBare at h
  split at h
  · exact ⟨rfl, (Decoded.instr.inj h).symm⟩
  · cases h

/-- Every request that is accepted is the encoding of its instruction, one row of the table at a time. -/
theorem encode_of_decodeOp {cfg : Config} {code : BitVec 4} {operands : List Byte} {i : Instr}
    (h : decodeOp code operands = .instr i) : encode cfg i = .op code operands := by
  unfold decodeOp at h
  split at h
  · next hcode =>
    obtain ⟨c, l, p, rfl, hlen, rfl⟩ := decodeSend_eq_instr_iff.1 h
    simp [encode, hcode, hlen]
  split at h
  · next hcode => obtain ⟨b, rfl, rfl⟩ := decodeFeedByte_eq_instr h; rw [hcode]; rfl
  split at h
  · next hcode => obtain ⟨rfl, rfl⟩ := decodeBare_eq_instr h; rw [hcode]; rfl
  split at h
  · next hcode => obtain ⟨rfl, rfl⟩ := decodeBare_eq_instr h; rw [hcode]; rfl
  split at h
  · next hcode => obtain ⟨k, rfl, rfl⟩ := decodeSendCtrl_eq_instr h; rw [hcode]; rfl
  · cases h

/-- Settles O10: a request is read back from its operands, and a frame is split where its length byte says and put
into the class its command names; under a legal CFG the two reserved commands differ. -/
theorem decodeOfEncode : Obligations.DecodeOfEncode := by
  intro cfg i hlegal hwf
  obtain ⟨-, -, -, hcmds, -⟩ := (Machine.legal_iff cfg).1 hlegal
  cases i with
  | send c p =>
    have hp : p.length ≤ 255 := of_decide_eq_true hwf
    refine decodeSend_eq_instr_iff.2 ⟨c, _, p, rfl, ?_, rfl⟩
    rw [BitVec.toNat_ofNat]; omega
  | feedByte b => rfl
  | tick => rfl
  | abort => rfl
  | sendCtrl k => cases k <;> rfl
  | frameAck l p ck =>
    obtain ⟨hl, hck⟩ := Bool.and_eq_true_iff.1 hwf
    exact (decodeWire_wireBytes hl hck).trans (by rw [if_pos rfl])
  | frameNack l p ck =>
    obtain ⟨hl, hck⟩ := Bool.and_eq_true_iff.1 hwf
    exact (decodeWire_wireBytes hl hck).trans (by rw [if_neg hcmds.symm, if_pos rfl])
  | frameOrdinary l c p ck =>
    obtain ⟨hframe, hord⟩ := Bool.and_eq_true_iff.1 hwf
    obtain ⟨hl, hck⟩ := Bool.and_eq_true_iff.1 hframe
    obtain ⟨hack, hnack⟩ := Bool.and_eq_true_iff.1 hord
    exact (decodeWire_wireBytes hl hck).trans
      (by rw [if_neg (of_decide_eq_true hack), if_neg (of_decide_eq_true hnack)])

/-- Settles O11: for a request by its row (`encode_of_decodeOp`), for a frame because its class keeps every byte. -/
theorem encodeOfDecode : Obligations.EncodeOfDecode := by
  intro cfg p i h
  cases p with
  | op code operands => exact encode_of_decodeOp h
  | wire bytes =>
    obtain ⟨l, c, rest, rfl, -, rfl⟩ := decodeWire_eq_instr_iff.1 h
    exact encode_classify cfg l c rest

end Sys2Proof
end

section
/-! PROOFS. What the Frame Codec answers for the bytes of any frame with a legal length (41_frame_codec.md R123): a frame
exactly where the checksum field is the checksum of the covered bytes. -/

namespace Sys2Proof.Machine

/-- Every checksum field of the right size holds one value of the policy's width. -/
theorem exists_checksumBytes_eq {cfg : Config} {ck : List Byte} (h : ck.length = cfg.ckSize) :
    ∃ v, v.toNat < 2 ^ (8 * cfg.ckSize) ∧ checksumBytes cfg v = ck := by
  unfold Config.ckSize at h ⊢
  cases hAlg : cfg.ckAlg with
  | xor8 | crc8 =>
    rw [hAlg] at h
    obtain ⟨b, rfl⟩ := List.length_eq_one_iff.1 h
    have hlow : (b.setWidth 16).extractLsb' 0 8 = b := by
      ext i hi; simp [show i < 16 by omega, BitVec.getLsbD_eq_getElem hi]
    refine ⟨b.setWidth 16, ?_, by simp [checksumBytes, hAlg, hlow]⟩
    rw [BitVec.toNat_setWidth_of_le (by decide)]; exact b.isLt
  | crc16 =>
    rw [hAlg] at h
    obtain ⟨hi, lo, rfl⟩ := List.length_eq_two.1 h
    have hhigh : (hi ++ lo : BitVec 16).extractLsb' 8 8 = hi := BitVec.extractLsb'_append_eq_left
    have hlow : (hi ++ lo : BitVec 16).extractLsb' 0 8 = lo := BitVec.extractLsb'_append_eq_right
    exact ⟨hi ++ lo, BitVec.isLt _, by simp [checksumBytes, hAlg, hhigh, hlow]⟩

section
variable {cfg : Config} {l : Byte} {p ck : List Byte} (c : Byte) (hl : l.toNat = 1 + p.length + cfg.ckSize)
include hl

/-- The value claimed by a field of the right size is `v` exactly where the field holds the bytes of `v`. -/
theorem spanClaimed_wireBytes_eq_iff (hck : ck.length = cfg.ckSize) {v : BitVec 16}
    (hv : v.toNat < 2 ^ (8 * cfg.ckSize)) :
    spanClaimed cfg (wireBytes cfg l c p ck) = v ↔ ck = checksumBytes cfg v := by
  constructor
  · intro h
    obtain ⟨w, hw, rfl⟩ := exists_checksumBytes_eq hck
    rw [spanClaimed_wireBytes_checksumBytes c hl hw] at h
    rw [h]
  · rintro rfl
    exact spanClaimed_wireBytes_checksumBytes c hl hv

/-- `decode` on the bytes of a frame with a legal length and a checksum field of the right size. -/
theorem decodeSpan_wireBytes (hck : ck.length = cfg.ckSize) (hp : p.length ≤ cfg.maxPayload) :
    decodeSpan cfg (wireBytes cfg l c p ck)
      = if checksumOk cfg c p ck then .frame { command := c, payload := p } else .checksumMismatch := by
  have hd := delimited_wireBytes c hl hck hp
  have hclaimed := spanClaimed_wireBytes_eq_iff c hl hck (compute_toNat_lt cfg (c :: p))
  split
  · next hok =>
    rw [decodeSpan_of_checksum_eq hd (by rw [spanCovered_wireBytes c ck hl, hclaimed.2 (checksumOk_iff.1 hok)]),
      spanPayload_wireBytes c ck hl, spanCommand_wireBytes]
  · next hbad =>
    refine decodeSpan_of_checksum_ne hd fun h => hbad ?_
    rw [spanCovered_wireBytes c ck hl] at h
    exact checksumOk_iff.2 (hclaimed.1 h.symm)

end

/-- The length byte of a span inside the precondition of `decode` is legal (R124). -/
theorem length_of_decodeSpan_eq_frame {cfg : Config} {s : List Byte} {f : Frame} (h : decodeSpan cfg s = .frame f) :
    cfg.minBody ≤ (spanLength s).toNat ∧ (spanLength s).toNat ≤ cfg.maxBody := by
  unfold decodeSpan at h
  split at h
  · next hd => simp only [delimited, Bool.and_eq_true, decide_eq_true_eq] at hd; exact ⟨hd.1.1.2, hd.1.2⟩
  · cases h

/-- Settles O12: the bytes after the command are split by the length byte, and on such bytes `decode` accepts exactly
the right checksum field (`decodeSpan_wireBytes`); a span it accepts has a legal length. -/
theorem wellFormedFrameIsAcceptedFrame : Obligations.WellFormedFrameIsAcceptedFrame := by
  intro cfg bytes i _ h
  obtain ⟨l, c, rest, rfl, hsize, rfl⟩ := decodeWire_eq_instr_iff.1 h
  set p := rest.take (l.toNat - 1 - cfg.ckSize) with hp
  set ck := rest.drop (l.toNat - 1 - cfg.ckSize) with hck
  have hbytes : cfg.sync1 :: cfg.sync2 :: l :: c :: rest = wireBytes cfg l c p ck := by
    rw [wireBytes, List.take_append_drop]
  rw [wellFormed_classify, ← hp, ← hck, hbytes, Bool.and_eq_true]
  constructor
  · rintro ⟨hl, hok⟩
    obtain ⟨hlen, hmax⟩ := lengthOk_iff.1 hl
    exact ⟨_, (decodeSpan_wireBytes c hlen (checksumOk_length hok) hmax).trans (if_pos hok)⟩
  · rintro ⟨f, hf⟩
    obtain ⟨hmin, hmax⟩ := length_of_decodeSpan_eq_frame hf
    rw [spanLength_wireBytes, Config.minBody] at hmin
    rw [spanLength_wireBytes, Config.maxBody] at hmax
    have hlen : l.toNat = 1 + p.length + cfg.ckSize := by rw [hp, List.length_take, hsize]; omega
    have hcksize : ck.length = cfg.ckSize := by rw [hck, List.length_drop, hsize]; omega
    have hpay : p.length ≤ cfg.maxPayload := by omega
    rw [decodeSpan_wireBytes c hlen hcksize hpay] at hf
    refine ⟨lengthOk_iff.2 ⟨hlen, hpay⟩, ?_⟩
    by_contra hbad
    rw [if_neg hbad] at hf
    cases hf

end Sys2Proof.Machine
end

section
/-! PROOFS. The CRC as a map on its register (40_checksum.md R103): with an odd polynomial every turn is one-to-one, so
a change of one byte survives to the end (section 5 (a)); and the residue property (section 3). -/

namespace Sys2Proof.Machine

/-- The low bit of a turn's result says whether the polynomial entered, so the turn can be undone. -/
theorem crcBit_injective {w : Nat} {P : CrcParams w} (hodd : P.poly.getLsbD 0 = true) :
    Function.Injective (crcBit P) := by
  intro r r' h
  have hw : 0 < w := by
    by_contra hw
    rw [BitVec.getLsbD_of_ge _ _ (by omega)] at hodd
    cases hodd
  have hlow (x : BitVec w) : (crcBit P x).getLsbD 0 = x.msb := by
    unfold crcBit
    split
    · next hm => simp [hodd, hw, hm]
    · next hm => simpa using hm
  have hmsb : r.msb = r'.msb := by rw [← hlow r, h, hlow r']
  have hshift : r <<< 1 = r' <<< 1 := by
    unfold crcBit at h
    rw [hmsb] at h
    split at h
    · exact (BitVec.xor_left_inj _).1 h
    · exact h
  refine BitVec.eq_of_getLsbD_eq fun i hi => ?_
  rcases Nat.lt_or_ge (i + 1) w with hlt | hge
  · have hbit := congrArg (fun x : BitVec w => x.getLsbD (i + 1)) hshift
    simpa [hlt, hi] using hbit
  · obtain rfl : i = w - 1 := by omega
    simpa [BitVec.msb_eq_getLsbD_last] using hmsb

theorem crcBits_injective {w : Nat} {P : CrcParams w} (hodd : P.poly.getLsbD 0 = true) (n : Nat) :
    Function.Injective (crcBits P n) := by
  induction n with
  | zero => exact Function.injective_id
  | succ n ih => exact ih.comp (crcBit_injective hodd)

/-- One byte acts on the register one-to-one. -/
theorem crcByte_injective_register {w : Nat} {P : CrcParams w} (hodd : P.poly.getLsbD 0 = true) (b : Byte) :
    Function.Injective fun r => crcByte P r b :=
  fun _ _ h => (BitVec.xor_left_inj _).1 (crcBits_injective hodd 8 h)

/-- A byte at the top of a register of at least eight bits can be read back. -/
theorem top_byte_injective {w : Nat} (hw : 8 ≤ w) : Function.Injective fun b : Byte => b.setWidth w <<< (w - 8) := by
  intro b b' h
  refine BitVec.eq_of_getLsbD_eq fun i hi => ?_
  have hbit := congrArg (fun x : BitVec w => x.getLsbD (w - 8 + i)) h
  have hiw : w - 8 + i < w := by omega
  have hi' : i < w := by omega
  simpa [hiw, hi'] using hbit

theorem reverse_injective {w : Nat} : Function.Injective (BitVec.reverse : BitVec w → BitVec w) :=
  fun x y h => by rw [← BitVec.reverse_reverse_eq (x := x), h, BitVec.reverse_reverse_eq]

/-- Different bytes take a register to different registers. -/
theorem crcByte_injective_byte {w : Nat} {P : CrcParams w} (hw : 8 ≤ w) (hodd : P.poly.getLsbD 0 = true)
    (r : BitVec w) : Function.Injective (crcByte P r) := by
  intro b b' h
  have htop := top_byte_injective hw ((BitVec.xor_right_inj _).1 (crcBits_injective hodd 8 h))
  split at htop
  · exact reverse_injective htop
  · exact htop

theorem foldl_crcByte_injective {w : Nat} {P : CrcParams w} (hodd : P.poly.getLsbD 0 = true) (bs : List Byte) :
    Function.Injective fun r => bs.foldl (crcByte P) r := by
  induction bs with
  | nil => exact Function.injective_id
  | cons b bs ih => exact ih.comp (crcByte_injective_register hodd b)

/-- The CRC is a one-to-one image of the register after the last byte. -/
theorem crc_eq_iff {w : Nat} (P : CrcParams w) (xs ys : List Byte) :
    crc P xs = crc P ys ↔ xs.foldl (crcByte P) P.init = ys.foldl (crcByte P) P.init := by
  refine ⟨fun h => ?_, fun h => by rw [crc, crc, h]⟩
  have hout := (BitVec.xor_left_inj _).1 h
  split at hout
  · exact reverse_injective hout
  · exact hout

/-- A change of one byte changes the CRC, for every odd polynomial of at least eight bits. -/
theorem crc_ne_of_byte_ne {w : Nat} {P : CrcParams w} (hw : 8 ≤ w) (hodd : P.poly.getLsbD 0 = true)
    (pre post : List Byte) {b b' : Byte} (h : b ≠ b') : crc P (pre ++ b :: post) ≠ crc P (pre ++ b' :: post) := by
  intro heq
  rw [crc_eq_iff, List.foldl_append, List.foldl_append] at heq
  exact h (crcByte_injective_byte hw hodd _ (foldl_crcByte_injective hodd post heq))

theorem xor8_ne_of_byte_ne (pre post : List Byte) {b b' : Byte} (h : b ≠ b') :
    xor8 (pre ++ b :: post) ≠ xor8 (pre ++ b' :: post) := by
  intro heq
  rw [xor8_append, xor8_append, xor8_cons, xor8_cons] at heq
  exact h ((BitVec.xor_left_inj _).1 ((BitVec.xor_right_inj _).1 heq))

/-- A byte is held in 16 bits without loss (log 15). -/
theorem setWidth_byte_injective : Function.Injective fun b : Byte => b.setWidth 16 := by
  intro b b' h
  have hnat := congrArg BitVec.toNat h
  rw [BitVec.toNat_setWidth_of_le (by decide), BitVec.toNat_setWidth_of_le (by decide)] at hnat
  exact BitVec.eq_of_toNat_eq hnat

/-- Settles O5: XOR8 cancels the bytes that agree, and the default CRC polynomials are odd (`crc_ne_of_byte_ne`). -/
theorem singleByteChangeChangesChecksum : Obligations.SingleByteChangeChangesChecksum := by
  intro cfg pre post b b' h8 h16 hne heq
  unfold compute at heq
  cases hAlg : cfg.ckAlg with
  | xor8 =>
    simp only [hAlg] at heq
    exact xor8_ne_of_byte_ne pre post hne (setWidth_byte_injective heq)
  | crc8 =>
    simp only [hAlg, h8] at heq
    exact crc_ne_of_byte_ne (by decide) (by decide) pre post hne (setWidth_byte_injective heq)
  | crc16 =>
    simp only [hAlg, h16] at heq
    exact crc_ne_of_byte_ne (by decide) (by decide) pre post hne heq

/-- As long as the bits shifted out are 0, the polynomial does not enter. -/
theorem crcBits_eq_shiftLeft {w : Nat} (P : CrcParams w) {n : Nat} {r : BitVec w} (hn : n ≤ w)
    (h : r.toNat < 2 ^ (w - n)) : crcBits P n r = r <<< n := by
  induction n generalizing r with
  | zero => simp [crcBits]
  | succ n ih =>
    have hpow : 2 ^ (w - n) = 2 * 2 ^ (w - (n + 1)) := by rw [← Nat.pow_succ']; congr 1; omega
    have hle : 2 ^ (w - n) ≤ 2 ^ w := Nat.pow_le_pow_right (by decide) (by omega)
    have hmsb : r.msb = false := by
      have hhalf : 2 ^ w = 2 * 2 ^ (w - 1) := by rw [← Nat.pow_succ']; congr 1; omega
      rw [BitVec.msb_eq_decide, decide_eq_false_iff_not]; omega
    have hstep : (r <<< 1).toNat < 2 ^ (w - n) := by
      rw [BitVec.toNat_shiftLeft, Nat.shiftLeft_eq, Nat.mod_eq_of_lt (by omega)]; omega
    have hbit : crcBit P r = r <<< 1 := by simp [crcBit, hmsb]
    rw [crcBits, hbit, ih (by omega) hstep, ← BitVec.shiftLeft_add, Nat.add_comm]

theorem crcBits_zero {w : Nat} (P : CrcParams w) {n : Nat} (hn : n ≤ w) : crcBits P n 0 = 0 := by
  rw [crcBits_eq_shiftLeft P hn (Nat.two_pow_pos _)]; simp

/-- The value of an 8-bit register that is fed itself. -/
theorem crcByte_crc8Default_self (r : Byte) : crcByte CrcParams.crc8Default r r = 0 := by
  have hcancel : r ^^^ (r.setWidth 8 <<< (8 - 8)) = 0 := by simp
  exact (congrArg (crcBits _ 8) hcancel).trans (crcBits_zero _ (by decide))

/-- A 16-bit register fed its high byte keeps its low byte, moved up; fed that too, it is empty. -/
theorem crcByte_crc16Default_self (r : BitVec 16) :
    crcByte CrcParams.crc16Default (crcByte CrcParams.crc16Default r (r.extractLsb' 8 8)) (r.extractLsb' 0 8) = 0 := by
  have hlow : r ^^^ ((r.extractLsb' 8 8).setWidth 16 <<< (16 - 8)) = (r.extractLsb' 0 8).setWidth 16 := by
    ext i hi
    interval_cases i <;> simp [← BitVec.getLsbD_eq_getElem]
  have hfirst : crcByte CrcParams.crc16Default r (r.extractLsb' 8 8) = (r.extractLsb' 0 8).setWidth 16 <<< 8 := by
    refine (congrArg (crcBits _ 8) hlow).trans (crcBits_eq_shiftLeft _ (by decide) ?_)
    rw [BitVec.toNat_setWidth_of_le (by decide)]; exact BitVec.isLt _
  rw [hfirst]
  exact (congrArg (crcBits _ 8) BitVec.xor_self).trans (crcBits_zero _ (by decide))

/-- Settles O4: the appended bytes are the register itself, so each xors one byte of it away. -/
theorem appendedCrcLeavesZero : Obligations.AppendedCrcLeavesZero := by
  have h8 (bs : List Byte) : crc CrcParams.crc8Default bs = bs.foldl (crcByte CrcParams.crc8Default) 0 := BitVec.xor_zero
  have h16 (bs : List Byte) : crc CrcParams.crc16Default bs = bs.foldl (crcByte CrcParams.crc16Default) 0xFFFF :=
    BitVec.xor_zero
  refine ⟨fun bytes => ?_, fun bytes => ?_⟩
  · rw [h8, h8, List.foldl_append]
    exact crcByte_crc8Default_self _
  · rw [h16, h16, List.foldl_append]
    exact crcByte_crc16Default_self _

end Sys2Proof.Machine
end

section
/-! PROOFS. Corruption detection (41_frame_codec.md section 4). -/

namespace Sys2Proof.Machine

/-- Writing one entry splits a list around it. -/
theorem exists_split_of_set {bs : List Byte} {i : Nat} (hi : i < bs.length) (b : Byte) :
    ∃ pre post, bs = pre ++ bs.getD i 0 :: post ∧ bs.set i b = pre ++ b :: post := by
  refine ⟨bs.take i, bs.drop (i + 1), ?_, List.set_eq_take_append_cons_drop.trans (if_pos hi)⟩
  rw [List.getD_eq_getElem _ _ hi, List.getElem_cons_drop, List.take_append_drop]

/-- Writing a different byte into a span changes its checksum, under the default CRC sets. -/
theorem compute_set_ne {cfg : Config} {bs : List Byte} {i : Nat} {b : Byte} (h8 : cfg.crc8 = CrcParams.crc8Default)
    (h16 : cfg.crc16 = CrcParams.crc16Default) (hi : i < bs.length) (hne : bs.getD i 0 ≠ b) :
    compute cfg (bs.set i b) ≠ compute cfg bs := by
  obtain ⟨pre, post, hold, hnew⟩ := exists_split_of_set hi b
  rw [hnew]
  conv_rhs => rw [hold]
  exact singleByteChangeChangesChecksum cfg pre post _ _ h8 h16 hne.symm

section
variable {cfg : Config} {c b : Byte} {p : List Byte} (l : Byte) (hl : l.toNat = 1 + p.length + cfg.ckSize)
  (hp : p.length ≤ cfg.maxPayload)
include hl hp

/-- A change in the covered span: the checksum field still holds the checksum of the old bytes. -/
theorem decodeSpan_of_covered_changed {i : Nat} (h8 : cfg.crc8 = CrcParams.crc8Default)
    (h16 : cfg.crc16 = CrcParams.crc16Default) (hi : i < (c :: p).length) (hne : (c :: p).getD i 0 ≠ b) :
    decodeSpan cfg ((wireBytes cfg l c p (checksumBytes cfg (compute cfg (c :: p)))).set (i + 3) b)
      = .checksumMismatch := by
  obtain ⟨c', p', hnew⟩ : ∃ c' p', (c :: p).set i b = c' :: p' := by cases i <;> exact ⟨_, _, rfl⟩
  have hset (ck : List Byte) : (wireBytes cfg l c p ck).set (i + 3) b = wireBytes cfg l c' p' ck :=
    congrArg (fun bs => cfg.sync1 :: cfg.sync2 :: l :: bs)
      ((List.set_append_left (s := c :: p) (t := ck) i b hi).trans (by rw [hnew]; rfl))
  have hlen : p'.length = p.length := by simpa using (congrArg List.length hnew).symm
  have hchange := compute_set_ne h8 h16 hi hne
  rw [hnew] at hchange
  rw [← hlen] at hl hp
  rw [hset]
  refine decodeSpan_of_checksum_ne (delimited_wireBytes c' hl (checksumBytes_length cfg _) hp) ?_
  rwa [spanCovered_wireBytes c' _ hl, spanClaimed_wireBytes_checksumBytes c' hl (compute_toNat_lt cfg _)]

/-- A change in the checksum field: it no longer holds the checksum of the bytes before it. -/
theorem decodeSpan_of_checksum_changed {i : Nat} {ck : List Byte} (hck : checksumOk cfg c p ck = true)
    (hi : i < ck.length) (hne : ck.getD i 0 ≠ b) :
    decodeSpan cfg ((wireBytes cfg l c p ck).set (p.length + i + 4) b) = .checksumMismatch := by
  have hset : (wireBytes cfg l c p ck).set (p.length + i + 4) b = wireBytes cfg l c p (ck.set i b) := by
    refine congrArg (fun bs => cfg.sync1 :: cfg.sync2 :: l :: c :: bs) ?_
    rw [List.set_append_right _ _ (Nat.le_add_right _ _), Nat.add_sub_cancel_left]
  have hsize : (ck.set i b).length = cfg.ckSize := by rw [List.length_set, checksumOk_length hck]
  rw [hset]
  refine (decodeSpan_wireBytes c hl hsize hp).trans (if_neg fun hok => hne ?_)
  have hsame : ck = ck.set i b := (checksumOk_iff.1 hck).trans (checksumOk_iff.1 hok).symm
  rw [hsame, List.getD_eq_getElem _ _ (by rwa [List.length_set]), List.getElem_set_self]

end

theorem encodeFrame_eq_some_iff {cfg : Config} {c : Byte} {p f : List Byte} :
    encodeFrame cfg c p = some f ↔ p.length ≤ cfg.maxPayload ∧ f = frameBytes cfg c p := by
  rcases Nat.lt_or_ge cfg.maxPayload p.length with hlt | hle
  · simp [encodeFrame_of_gt c hlt, hlt]
  · simp [encodeFrame_of_le c hle, hle, eq_comm]

/-- Settles O8: the changed byte stands either in the covered span, whose checksum then differs from the one in the
field, or in the checksum field, which is then not the one of the covered span. -/
theorem corruptByteIsDetected : Obligations.CorruptByteIsDetected := by
  intro cfg c p f k b hlegal h8 h16 hf hk hlt hne
  obtain ⟨hp, rfl⟩ := encodeFrame_eq_some_iff.1 hf
  have hl := lengthByte_toNat hlegal hp
  have hok : checksumOk cfg c p (checksumBytes cfg (compute cfg (c :: p))) = true := checksumOk_iff.2 rfl
  rw [frameBytes_length] at hlt
  rcases Nat.lt_or_ge k (p.length + 4) with hcov | hfield
  · obtain ⟨i, rfl⟩ : ∃ i, k = i + 3 := ⟨k - 3, by omega⟩
    have hi : i < (c :: p).length := by rw [List.length_cons]; omega
    refine decodeSpan_of_covered_changed _ hl hp h8 h16 hi ?_
    exact fun h => hne ((List.getD_append (c :: p) _ _ _ hi).trans h)
  · obtain ⟨i, rfl⟩ : ∃ i, k = p.length + i + 4 := ⟨k - p.length - 4, by omega⟩
    have hi : i < (checksumBytes cfg (compute cfg (c :: p))).length := by rw [checksumBytes_length]; omega
    exact decodeSpan_of_checksum_changed _ hl hp hok hi fun h =>
      hne ((byteAt_wireBytes_checksum cfg _ c p _ rfl).trans h)

end Sys2Proof.Machine
end

section
/-! PROOFS. The step (00_scope.md section 5, 20_memory.md section 6): which input runs what, and the tables of codes and
check values. -/

namespace Sys2Proof.Machine

/-! ### Closed facts: check values, words and codes -/

set_option maxRecDepth 4000 in
/-- Settles O2: each value is one run of the shift register over at most nine bytes. -/
theorem crcCheckValues : Obligations.CrcCheckValues := by
  refine ⟨?_, ?_, ?_, ?_, ?_, ?_, ?_, ?_, ?_, ?_, ?_, ?_, ?_, ?_, ?_, ?_, ?_⟩ <;> decide

/-- Settles O9: each word is decoded by evaluation. -/
theorem writtenWordsDecode : Obligations.WrittenWordsDecode := by
  refine ⟨?_, ?_, ?_, ?_, ?_, ?_, ?_, ?_, ?_, ?_⟩ <;> decide

/-- Settles O13: the codes are read off the tables; every policy has its own. -/
theorem codesOfStatesConditionsEvents : Obligations.CodesOfStatesConditionsEvents := by
  refine ⟨rfl, rfl, rfl, rfl, fun a => ?policies, rfl, rfl, fun _ _ => ⟨rfl, rfl⟩, fun _ => rfl, rfl, rfl⟩
  case policies => cases a <;> rfl

/-! ### Taking the next input -/

theorem step_of_legal {s : State} (h : s.cfg.legal = true) : step s = takeInput s := withLegalCfg_of_legal h _

theorem takeInput_of_nil {s : State} (h : s.inq = []) : takeInput s = .next s := by simp only [takeInput, h]

theorem takeInput_of_rst {s : State} {rest : List Input} (h : s.inq = .rst :: rest) :
    takeInput s = .next (applyReset { s with inq := rest }) := by simp only [takeInput, h]

theorem takeInput_of_perform {s : State} {t : Nat} {p : Packet} {rest : List Input}
    (h : s.inq = .perform t p :: rest) : takeInput s = runPacket p { s with inq := rest, portT := t } := by
  simp only [takeInput, h]

theorem runPacket_of_instr {s : State} {p : Packet} {i : Instr} (h : decode s.cfg p = .instr i) :
    runPacket p s = exec i s := by simp only [runPacket, h]

theorem runPacket_of_rejected {s : State} {p : Packet} {e : DecodeError} (h : decode s.cfg p = .rejected e) :
    runPacket p s = rejectPacket p e s := by simp only [runPacket, h]

/-- Settles O14: the packet at the head of the inputs is taken, decoded and run. -/
theorem stepRunsTheDecodedInstruction : Obligations.StepRunsTheDecodedInstruction := by
  intro s t p rest i hlegal hinq hdec
  rw [step_of_legal hlegal, takeInput_of_perform hinq]
  exact runPacket_of_instr (s := { s with inq := rest, portT := t }) hdec

theorem decodeTableWord_eq_some {nbits w : Nat} {i : Instr} (h : decodeTableWord nbits w = some i) :
    decode Config.default (tableWordPacket nbits w) = .instr i := by
  unfold decodeTableWord at h
  cases hd : decode Config.default (tableWordPacket nbits w) with
  | instr j => rw [hd] at h; cases h; rfl
  | rejected e => rw [hd] at h; cases h

/-- Settles O15: the packet is placed at the time port T carries already, so taking it off leaves the state as it was. -/
theorem fetchWordRunsAsItsInstruction : Obligations.FetchWordRunsAsItsInstruction := by
  intro s nbits w i hcfg hword
  have hlegal : (s.withFetchWord nbits w).cfg.legal = true := by
    show s.cfg.legal = true
    rw [hcfg]; decide
  have hdec : decode (s.withFetchWord nbits w).cfg (tableWordPacket nbits w) = .instr i := by
    show decode s.cfg _ = _
    rw [hcfg, decodeTableWord_eq_some hword]
  exact stepRunsTheDecodedInstruction (s.withFetchWord nbits w) s.portT _ s.inq i hlegal rfl hdec

/-- Settles O16: an empty list of inputs is the waiting of the block. -/
theorem stepWithoutInputWaits : Obligations.StepWithoutInputWaits := by
  intro s hlegal hinq
  rw [step_of_legal hlegal, takeInput_of_nil hinq]

/-- No row of the table has a reserved code (R81). -/
theorem decodeOp_of_reserved {code : BitVec 4} (operands : List Byte) (h : code = 0 ∨ 6 ≤ code.toNat) :
    decodeOp code operands = .rejected (.reservedOpcode code) := by
  have hne (k : BitVec 4) (hk : 1 ≤ k.toNat ∧ k.toNat ≤ 5) : code ≠ k := by
    rintro rfl
    rcases h with rfl | h
    · exact absurd hk.1 (by decide)
    · omega
  simp only [decodeOp, if_neg (hne 1 (by decide)), if_neg (hne 2 (by decide)), if_neg (hne 3 (by decide)),
    if_neg (hne 4 (by decide)), if_neg (hne 5 (by decide))]

/-- Settles O17: the decoder rejects the code by name, and the rejection is passed on. -/
theorem reservedOpcodeIsRefused : Obligations.ReservedOpcodeIsRefused := by
  intro s t code operands rest hlegal hinq hcode
  rw [step_of_legal hlegal, takeInput_of_perform hinq,
    runPacket_of_rejected (p := .op code operands) (decodeOp_of_reserved operands hcode)]
  rfl

theorem withLegalCfg_of_illegal {s : State} (h : s.cfg.legal = false) (r : Result) :
    withLegalCfg s r = .refused .illegalConfig := if_neg (by simp [h])

theorem exec_of_illegal {s : State} (h : s.cfg.legal = false) (i : Instr) : exec i s = .refused .illegalConfig := by
  cases i <;> exact withLegalCfg_of_illegal h _

/-- Settles O18: every meaning and the step itself begin with the test of CFG. -/
theorem illegalConfigIsRefused : Obligations.IllegalConfigIsRefused :=
  fun _ h => ⟨withLegalCfg_of_illegal h _, exec_of_illegal h⟩

/-- Settles O20: RST writes every register and leaves the ports, the trace and the further inputs. -/
theorem resetLeavesTheResetValues : Obligations.ResetLeavesTheResetValues := by
  refine ⟨⟨rfl, rfl, rfl, rfl, rfl, rfl, rfl, rfl, rfl, rfl, fun a => ⟨rfl, rfl⟩⟩, fun s rest hlegal hinq => ?_⟩
  rw [step_of_legal hlegal, takeInput_of_rst hinq]
  rfl

/-- Settles O43: a control frame has an empty payload, which fits every legal CFG. -/
theorem sendCtrlEmitsAControlFrame : Obligations.SendCtrlEmitsAControlFrame := by
  intro s hlegal
  have hexec (k : CtrlKind) : exec (.sendCtrl k) s = .next (sendCtrl k s) := withLegalCfg_of_legal hlegal _
  exact ⟨⟨_, encodeFrame_of_le _ (Nat.zero_le _), hexec .ack⟩, ⟨_, encodeFrame_of_le _ (Nat.zero_le _), hexec .nack⟩⟩

/-- Settles O45: nothing is pending, no frame is in progress and both buffers are empty. -/
theorem resetMeetsTheInvariant : Obligations.ResetMeetsTheInvariant where
  left :=
    { legal := by decide
      rx := fun h => by cases h
      pt := fun h => by cases h
      buf := ⟨by decide, by decide, by decide, by decide⟩
      retries := by decide
      deadline := by decide }
  right := ⟨rfl, rfl⟩

/-! ### READ_LENGTH (42_receiver_sync.md R144) -/

theorem feedByte_of_readLength {s : State} (h : s.rxState = .readLength) (b : Byte) :
    feedByte b s = .next (readLength b s) := by simp only [feedByte, h]

theorem readLength_of_inBounds {b : Byte} {s : State} (hmin : s.cfg.minBody ≤ b.toNat) (hmax : b.toNat ≤ s.cfg.maxBody) :
    readLength b s = { s with rxLen := b, rxRemain := b, rxState := .readBody } :=
  if_neg (not_or.2 ⟨hmax.not_gt, hmin.not_gt⟩)

theorem readLength_of_outOfBounds {b : Byte} {s : State} (h : b.toNat < s.cfg.minBody ∨ s.cfg.maxBody < b.toNat) :
    readLength b s = { s with rxState := .seekSync1, trace := s.trace ++ [.lengthOverflow] } :=
  if_pos h.symm

/-- Settles O22: the two sides of the bound test of R144. -/
theorem readLengthAcceptsExactlyTheLegalLengths : Obligations.ReadLengthAcceptsExactlyTheLegalLengths := by
  intro s b hlegal hstate
  rw [exec_feedByte_of_legal hlegal, feedByte_of_readLength hstate]
  exact ⟨fun hmin hmax => by rw [readLength_of_inBounds hmin hmax],
    fun h => by rw [readLength_of_outOfBounds h]⟩

end Sys2Proof.Machine
end

section
/-! PROOFS. What each operation can do, case by case, down to the state it leaves: the controller's reaction to a frame,
FEEDBYTE, and the induction over what an instruction or a step is made of. -/

namespace Sys2Proof.Machine

/-! ### The controller's reaction to a frame (43_reliability.md R174 to R179) -/

/-- What `onFrame` can do in `s`, one constructor for each outcome of its arms. -/
inductive Reacts (s : State) : State → Prop
  /-- ACK or NACK with nothing pending (R179). -/
  | ignores : Reacts s s
  /-- ACK of the pending frame (R175). -/
  | resolves (hsent : s.rcState = .sent) :
    Reacts s { s with rcState := .idle, ev := s.ev ++ [.sendResolved .ok] }
  /-- NACK with a retry left (R176, R177). -/
  | retries (f : List Byte) (hsent : s.rcState = .sent) (hleft : s.ptRetries ≠ 0)
      (hread : memRead s.ptFrame 0 s.ptFlen.toNat = some f) :
    Reacts s { s with tx := s.tx ++ [f], ptRetries := s.ptRetries - 1, ptDeadline := deadlineFrom s.cfg (now s),
                      trace := s.trace ++ [.nackReceived] }
  /-- NACK with no retry left (R177, R218). -/
  | givesUp (hsent : s.rcState = .sent) (hnone : s.ptRetries = 0) :
    Reacts s { s with rcState := .idle, ev := s.ev ++ [.sendResolved .retriesExhausted],
                      trace := s.trace ++ [.nackReceived, .retriesExhausted] }
  /-- An ordinary frame (R178). -/
  | delivers (f : Frame) (hack : f.command ≠ s.cfg.ackCmd) (hnack : f.command ≠ s.cfg.nackCmd)
      (hsize : f.payload.length ≤ s.cfg.maxPayload) :
    Reacts s { s with
      tx := if s.cfg.autoAck = true then s.tx ++ [frameBytes s.cfg s.cfg.ackCmd []] else s.tx,
      ev := s.ev ++ [.frameDelivered f.command f.payload] }

theorem reacts_of_onNack {s t : State} (h : onNack s = .next t) : Reacts s t := by
  rcases onNack_next h with ⟨hsent, hfailed⟩ | ⟨-, rfl⟩
  · rcases attemptFailed_next hfailed with ⟨hnone, rfl⟩ | ⟨hleft, hretry⟩
    · have hexact : raise .retriesExhausted (raise .nackReceived s)
          = { s with rcState := .idle, ev := s.ev ++ [.sendResolved .retriesExhausted],
                     trace := s.trace ++ [.nackReceived, .retriesExhausted] } := by
        simp [raise, note, evEmit]
      rw [hexact]
      exact .givesUp hsent hnone
    · obtain ⟨f, hread, rfl⟩ := retry_next hretry
      exact .retries f hsent hleft hread
  · exact .ignores

theorem reacts_of_onFrame {f : Frame} {s t : State} (hsize : f.payload.length ≤ s.cfg.maxPayload)
    (h : onFrame f s = .next t) : Reacts s t := by
  rcases onFrame_next h with ⟨-, rfl⟩ | ⟨-, -, hnack⟩ | ⟨hack, hnack, rfl⟩
  · cases hrc : s.rcState with
    | sent => rw [onAck_of_sent hrc]; exact .resolves hrc
    | idle => rw [onAck_of_idle hrc]; exact .ignores
  · exact reacts_of_onNack hnack
  · rw [onOrdinary_eq]; exact .delivers f hack hnack hsize

/-- The payload of a frame `decode` accepts is within its bound (R120). -/
theorem payload_of_decodeSpan_eq_frame {cfg : Config} {span : List Byte} {f : Frame}
    (h : decodeSpan cfg span = .frame f) : f.payload.length ≤ cfg.maxPayload := by
  obtain ⟨-, hmax⟩ := length_of_decodeSpan_eq_frame h
  have hf : f.payload = spanPayload cfg span := by
    unfold decodeSpan at h
    split at h
    · split at h
      · cases h; rfl
      · cases h
    · cases h
  rw [hf, spanPayload, slice, List.length_take, spanPayloadLen]
  unfold Config.maxBody at hmax
  omega

/-! ### TICK (43_reliability.md R180) -/

theorem one_le_toNat_of_ne_zero {w : Nat} {x : BitVec w} (h : x ≠ 0) : 1 ≤ x.toNat :=
  Nat.one_le_iff_ne_zero.2 fun h0 => h (BitVec.eq_of_toNat_eq h0)

theorem idle_of_ne_sent {s : State} (h : s.rcState ≠ .sent) : s.rcState = .idle := by
  cases hrc : s.rcState with
  | idle => rfl
  | sent => exact absurd hrc h

/-- What TICK can do in `s`, one constructor for each outcome. -/
inductive TickOutcome (s : State) : State → Prop
  /-- Nothing pending, or its deadline not reached. -/
  | waits : TickOutcome s s
  /-- The deadline has passed with a retry left (R176). -/
  | retries (f : List Byte) (hsent : s.rcState = .sent) (hleft : s.ptRetries ≠ 0)
      (hread : memRead s.ptFrame 0 s.ptFlen.toNat = some f) :
    TickOutcome s { s with tx := s.tx ++ [f], ptRetries := s.ptRetries - 1, ptDeadline := deadlineFrom s.cfg (now s) }
  /-- The deadline has passed with no retry left (R219). -/
  | givesUp (hsent : s.rcState = .sent) (hnone : s.ptRetries = 0) :
    TickOutcome s { s with rcState := .idle, ev := s.ev ++ [.sendResolved .retriesExhausted],
                           trace := s.trace ++ [.retriesExhausted] }

theorem tickOutcome_of_next {s t : State} (h : tick s = .next t) : TickOutcome s t := by
  rcases tick_next h with ⟨hsent, -, hfailed⟩ | ⟨-, rfl⟩
  · rcases attemptFailed_next hfailed with ⟨hnone, rfl⟩ | ⟨hleft, hretry⟩
    · exact .givesUp hsent hnone
    · obtain ⟨f, hread, rfl⟩ := retry_next hretry
      exact .retries f hsent hleft hread
  · exact .waits

/-! ### What the controller's operations keep (43_reliability.md sections 2 and 4) -/

/-- TICK leaves everything outside the controller's own record and outputs alone. -/
theorem tick_keeps {s t : State} (h : TickOutcome s t) :
    SameRx s t ∧ SameInputs s t ∧ t.res = s.res ∧ t.ptFrame = s.ptFrame ∧ t.ptFlen = s.ptFlen := by
  cases h <;> exact ⟨⟨rfl, rfl, rfl, rfl⟩, ⟨rfl, rfl, rfl⟩, rfl, rfl, rfl⟩

/-- SEND stores to PT_FRAME only where it accepts, and then inside the stored frame only. -/
theorem send_keeps {c : Byte} {p : List Byte} {s t : State} (h : send c p s = .next t) :
    SameRx s t ∧ SameInputs s t ∧ t.ev = s.ev ∧ (s.rcState = .sent → SamePt s t) ∧
    ∀ a, ¬ (s.rcState = .idle ∧ p.length ≤ s.cfg.maxPayload ∧ a < 4 + p.length + s.cfg.ckSize) →
      readByte t.ptFrame a = readByte s.ptFrame a := by
  rcases send_next h with ⟨hsent, rfl⟩ | ⟨-, -, rfl⟩ | ⟨hidle, hp, rfl⟩
  · exact ⟨⟨rfl, rfl, rfl, rfl⟩, ⟨rfl, rfl, rfl⟩, rfl, fun _ => ⟨rfl, rfl, rfl, rfl, rfl⟩, fun _ _ => rfl⟩
  · exact ⟨⟨rfl, rfl, rfl, rfl⟩, ⟨rfl, rfl, rfl⟩, rfl, fun _ => ⟨rfl, rfl, rfl, rfl, rfl⟩, fun _ _ => rfl⟩
  · refine ⟨⟨rfl, rfl, rfl, rfl⟩, ⟨rfl, rfl, rfl⟩, rfl, fun hsent => absurd hsent hidle, fun a ha => ?_⟩
    have hout : 0 + (frameBytes s.cfg c p).length ≤ a := by
      rw [frameBytes_length]
      by_contra hlt
      exact ha ⟨idle_of_ne_sent hidle, hp, by omega⟩
    exact readByte_writeSpan_outside _ (.inr hout)

/-! ### FEEDBYTE (42_receiver_sync.md R141 to R146) -/

/-- What FEEDBYTE of `b` can do in `s`, one constructor for each kind of row of the transition table. -/
inductive FeedByteOutcome (b : Byte) (s : State) : State → Prop
  /-- Hunting for a marker, or a length out of bounds: RX_STATE moves, at most one condition is noted. -/
  | hunts (x : RxState) (cs : List Condition) (hfrom : s.rxState ≠ .readBody) (hto : x ≠ .readBody)
      (hcs : cs.length ≤ 1) :
    FeedByteOutcome b s { s with rxState := x, trace := s.trace ++ cs }
  /-- A length in bounds (R144). -/
  | starts (hfrom : s.rxState = .readLength) (hmin : s.cfg.minBody ≤ b.toNat) (hmax : b.toNat ≤ s.cfg.maxBody) :
    FeedByteOutcome b s { s with rxLen := b, rxRemain := b, rxState := .readBody }
  /-- A body byte that is not the last (R145). -/
  | stores (hfrom : s.rxState = .readBody) (hpos : 1 ≤ s.rxRemain.toNat) (hle : s.rxRemain.toNat ≤ s.rxLen.toNat)
      (hindex : rxIndex s < s.cfg.maxBody) (hmore : s.rxRemain ≠ 1) :
    FeedByteOutcome b s (storeBodyByte b s)
  /-- The last body byte of a frame that does not validate (R215). -/
  | drops (hfrom : s.rxState = .readBody) (hindex : rxIndex s < s.cfg.maxBody) (hlast : s.rxRemain = 1) :
    FeedByteOutcome b s { storeBodyByte b s with rxState := .seekSync1, trace := s.trace ++ [.checksumMismatch] }
  /-- The last body byte of a frame that validates (R146). -/
  | completes (t : State) (hfrom : s.rxState = .readBody) (hindex : rxIndex s < s.cfg.maxBody) (hlast : s.rxRemain = 1)
      (hreacts : Reacts { storeBodyByte b s with rxState := .seekSync1 } t) :
    FeedByteOutcome b s t

theorem feedByteOutcome_of_readBody {b : Byte} {s t : State} (hfrom : s.rxState = .readBody)
    (h : readBody b s = .next t) : FeedByteOutcome b s t := by
  obtain ⟨hne, hle, hindex, ⟨hlast, hvalid⟩ | ⟨hmore, rfl⟩⟩ := readBody_next h
  · have hstore : { s with rxBuf := writeByte s.rxBuf (rxIndex s) b, rxRemain := 0 } = storeBodyByte b s := by
      rw [storeBodyByte, hlast]; rfl
    rw [hstore] at hvalid
    obtain ⟨body, -, ⟨-, rfl⟩ | ⟨f, hdecode, hframe⟩⟩ := validate_next hvalid
    · exact .drops hfrom hindex hlast
    · exact .completes t hfrom hindex hlast
        (reacts_of_onFrame (payload_of_decodeSpan_eq_frame (cfg := s.cfg) hdecode) hframe)
  · exact .stores hfrom (one_le_toNat_of_ne_zero hne) hle hindex hmore

theorem feedByteOutcome_of_seekSync1 {b : Byte} {s : State} (hfrom : s.rxState = .seekSync1) :
    FeedByteOutcome b s (seekSync1 b s) := by
  have hne : s.rxState ≠ .readBody := by simp [hfrom]
  by_cases h1 : b = s.cfg.sync1
  · rw [seekSync1_of_eq_sync1 h1]
    simpa using FeedByteOutcome.hunts (b := b) .seekSync2 [] hne (by decide) (by decide)
  · rw [seekSync1_of_ne_sync1 h1, ← set_rxState_and_trace_of_eq hfrom]
    exact .hunts .seekSync1 [.syncLost] hne (by decide) (by decide)

theorem feedByteOutcome_of_seekSync2 {b : Byte} {s : State} (hfrom : s.rxState = .seekSync2) :
    FeedByteOutcome b s (seekSync2 b s) := by
  have hne : s.rxState ≠ .readBody := by simp [hfrom]
  by_cases h2 : b = s.cfg.sync2
  · rw [seekSync2_of_eq_sync2 h2]
    simpa using FeedByteOutcome.hunts (b := b) .readLength [] hne (by decide) (by decide)
  · by_cases h1 : b = s.cfg.sync1
    · rw [seekSync2_of_eq_sync1 h2 h1]
      exact .hunts .seekSync2 [.syncLost] hne (by decide) (by decide)
    · rw [seekSync2_of_ne h2 h1]
      exact .hunts .seekSync1 [.syncLost] hne (by decide) (by decide)

theorem feedByteOutcome_of_readLength {b : Byte} {s : State} (hfrom : s.rxState = .readLength) :
    FeedByteOutcome b s (readLength b s) := by
  by_cases hin : s.cfg.minBody ≤ b.toNat ∧ b.toNat ≤ s.cfg.maxBody
  · rw [readLength_of_inBounds hin.1 hin.2]
    exact .starts hfrom hin.1 hin.2
  · rw [readLength_of_outOfBounds (by omega)]
    exact .hunts .seekSync1 [.lengthOverflow] (by simp [hfrom]) (by decide) (by decide)

theorem feedByteOutcome_of_next {b : Byte} {s t : State} (h : feedByte b s = .next t) : FeedByteOutcome b s t := by
  rcases feedByte_next h with ⟨hfrom, rfl⟩ | ⟨hfrom, rfl⟩ | ⟨hfrom, rfl⟩ | ⟨hfrom, hbody⟩
  · exact feedByteOutcome_of_seekSync1 hfrom
  · exact feedByteOutcome_of_seekSync2 hfrom
  · exact feedByteOutcome_of_readLength hfrom
  · exact feedByteOutcome_of_readBody hfrom hbody

/-! ### Instructions and steps as operations -/

/-- The bytes an instruction puts on the inbound stream: one for FEEDBYTE, the whole frame for a frame row (log 7);
none for the operations of the controller. -/
def inboundBytes (cfg : Config) : Instr → Option (List Byte)
  | .feedByte b => some [b]
  | .frameAck l p ck => some (wireBytes cfg l cfg.ackCmd p ck)
  | .frameNack l p ck => some (wireBytes cfg l cfg.nackCmd p ck)
  | .frameOrdinary l c p ck => some (wireBytes cfg l c p ck)
  | .send _ _ => none
  | .tick => none
  | .abort => none
  | .sendCtrl _ => none

theorem feedAll_singleton (b : Byte) (s : State) : feedAll [b] s = feedByte b s := by
  rw [feedAll_cons]
  cases feedByte b s <;> rfl

/-- An instruction of the inbound stream feeds its bytes (30_encoding.md R84). -/
theorem exec_of_inboundBytes {s : State} {i : Instr} {bs : List Byte} (h : inboundBytes s.cfg i = some bs) :
    exec i s = withLegalCfg s (feedAll bs s) := by
  cases i with
  | feedByte b => cases h; rw [feedAll_singleton]; rfl
  | frameAck | frameNack | frameOrdinary => cases h; rfl
  | send | tick | abort | sendCtrl => cases h

/-- What an instruction that completes has done: one operation of the controller, or bytes fed to the receiver. -/
theorem exec_next {i : Instr} {s t : State} (h : exec i s = .next t) :
    (∃ c p, i = .send c p ∧ send c p s = .next t) ∨ (i = .tick ∧ tick s = .next t) ∨
    (i = .abort ∧ t = abort s) ∨ (∃ k, i = .sendCtrl k ∧ t = sendCtrl k s) ∨
    ∃ bs, inboundBytes s.cfg i = some bs ∧ feedAll bs s = .next t := by
  cases hin : inboundBytes s.cfg i with
  | some bs =>
    rw [exec_of_inboundBytes hin] at h
    exact .inr (.inr (.inr (.inr ⟨bs, rfl, (withLegalCfg_next h).2⟩)))
  | none =>
    cases i with
    | send c p => exact .inl ⟨c, p, rfl, (withLegalCfg_next h).2⟩
    | tick => exact .inr (.inl ⟨rfl, (withLegalCfg_next h).2⟩)
    | abort => exact .inr (.inr (.inl ⟨rfl, (Host.Outcome.next.inj (withLegalCfg_next h).2).symm⟩))
    | sendCtrl k => exact .inr (.inr (.inr (.inl ⟨k, rfl, (Host.Outcome.next.inj (withLegalCfg_next h).2).symm⟩)))
    | feedByte | frameAck | frameNack | frameOrdinary => cases hin

/-- A relation that is kept over sequences and holds over each operation holds over every instruction: the induction,
once. -/
theorem exec_induction {R : State → State → Prop} (hrefl : ∀ s, R s s) (htrans : ∀ s t u, R s t → R t u → R s u)
    (hsend : ∀ c p s t, send c p s = .next t → R s t) (htick : ∀ s t, TickOutcome s t → R s t)
    (habort : ∀ s, R s (abort s)) (hctrl : ∀ k s, R s (sendCtrl k s))
    (hfeed : ∀ b s t, FeedByteOutcome b s t → R s t) {i : Instr} {s t : State} (h : exec i s = .next t) : R s t := by
  rcases exec_next h with ⟨c, p, -, hs⟩ | ⟨-, ht⟩ | ⟨-, rfl⟩ | ⟨k, -, rfl⟩ | ⟨bs, -, hbs⟩
  · exact hsend c p s t hs
  · exact htick s t (tickOutcome_of_next ht)
  · exact habort s
  · exact hctrl k s
  · exact feedAll_induction hrefl htrans (fun b s t h => hfeed b s t (feedByteOutcome_of_next h)) hbs

/-- What a step that gives a next state has done: nothing, a reset, an instruction, or stray bytes fed (log 9). -/
theorem step_next {s t : State} (h : step s = .next t) :
    t = s ∨ (∃ rest, t = applyReset { s with inq := rest }) ∨
    ∃ rest n, (∃ i, exec i { s with inq := rest, portT := n } = .next t) ∨
      ∃ bs, feedAll bs { s with inq := rest, portT := n } = .next t := by
  have htake := (withLegalCfg_next h).2
  match hinq : s.inq with
  | [] => rw [takeInput_of_nil hinq] at htake; cases htake; exact .inl rfl
  | .rst :: rest => rw [takeInput_of_rst hinq] at htake; cases htake; exact .inr (.inl ⟨rest, rfl⟩)
  | .perform n p :: rest =>
    rw [takeInput_of_perform hinq] at htake
    refine .inr (.inr ⟨rest, n, ?_⟩)
    cases hdec : decode s.cfg p with
    | instr i => exact .inl ⟨i, by rwa [runPacket_of_instr (s := { s with inq := rest, portT := n }) hdec] at htake⟩
    | rejected e =>
      rw [runPacket_of_rejected (s := { s with inq := rest, portT := n }) hdec] at htake
      cases p with
      | wire bytes => exact .inr ⟨bytes, (withLegalCfg_next htake).2⟩
      | op code operands => cases e <;> cases htake

/-- The same for a step: RST and the taking of an input are the two operations a step adds. -/
theorem step_induction {R : State → State → Prop} (hrefl : ∀ s, R s s) (htrans : ∀ s t u, R s t → R t u → R s u)
    (hinput : ∀ s rest n, R s { s with inq := rest, portT := n })
    (hreset : ∀ s rest, R s (applyReset { s with inq := rest }))
    (hsend : ∀ c p s t, send c p s = .next t → R s t) (htick : ∀ s t, TickOutcome s t → R s t)
    (habort : ∀ s, R s (abort s)) (hctrl : ∀ k s, R s (sendCtrl k s))
    (hfeed : ∀ b s t, FeedByteOutcome b s t → R s t) {s t : State} (h : step s = .next t) : R s t := by
  rcases step_next h with rfl | ⟨rest, rfl⟩ | ⟨rest, n, ⟨i, hexec⟩ | ⟨bs, hbs⟩⟩
  · exact hrefl _
  · exact hreset s rest
  · exact htrans _ _ _ (hinput s rest n) (exec_induction hrefl htrans hsend htick habort hctrl hfeed hexec)
  · exact htrans _ _ _ (hinput s rest n)
      (feedAll_induction hrefl htrans (fun b s t h => hfeed b s t (feedByteOutcome_of_next h)) hbs)

end Sys2Proof.Machine
end

section
/-! PROOFS. Every step keeps the invariant (10_state.md sections 2 and 3, 20_memory.md section 1), and what it hands to
the transport is encoded. The invariant splits into the receiver's half and the controller's half; an operation of one
leaves the other's fields alone. -/

namespace Sys2Proof.Machine

/-- The receiver's half of the invariant. -/
def RxGood (s : State) : Prop := RxInv s ∧ Memory.wf s.rxBuf ∧ ∀ x ∈ s.rxBuf, x.1 < s.cfg.maxBody

/-- The controller's half of the invariant. -/
def PtGood (s : State) : Prop :=
  PtInv s ∧ Memory.wf s.ptFrame ∧ (∀ x ∈ s.ptFrame, x.1 < s.cfg.maxFrame) ∧
    s.ptRetries.toNat ≤ s.cfg.maxRetries.toNat ∧ s.ptDeadline < 2 ^ s.cfg.wTime

theorem inv_iff (s : State) : Inv s ↔ s.cfg.legal = true ∧ RxGood s ∧ PtGood s := by
  constructor
  · rintro ⟨hlegal, hrx, hpt, ⟨hrxWf, hptWf, hrxCap, hptCap⟩, hretries, hdeadline⟩
    exact ⟨hlegal, ⟨hrx, hrxWf, hrxCap⟩, hpt, hptWf, hptCap, hretries, hdeadline⟩
  · rintro ⟨hlegal, ⟨hrx, hrxWf, hrxCap⟩, hpt, hptWf, hptCap, hretries, hdeadline⟩
    exact ⟨hlegal, hrx, hpt, ⟨hrxWf, hptWf, hrxCap, hptCap⟩, hretries, hdeadline⟩

theorem deadlineFrom_lt (cfg : Config) (n : Nat) : deadlineFrom cfg n < 2 ^ cfg.wTime :=
  Nat.mod_lt _ (Nat.two_pow_pos _)

/-! ### The controller's half -/

/-- Nothing is asked of the stored frame once nothing is pending. -/
theorem ptGood_idle {s : State} (h : PtGood s) : PtGood { s with rcState := .idle } := by
  obtain ⟨-, hwf, hcap, hretries, hdeadline⟩ := h
  exact ⟨nofun, hwf, hcap, hretries, hdeadline⟩

theorem toNat_sub_one_of_ne_zero {x : BitVec 8} (h : x ≠ 0) : (x - 1).toNat = x.toNat - 1 :=
  BitVec.toNat_sub_of_le (BitVec.le_def.2 (one_le_toNat_of_ne_zero h))

/-- A retry counts down and sets the deadline; the stored frame stands (R176). -/
theorem ptGood_retried {s : State} (h : PtGood s) (hleft : s.ptRetries ≠ 0) :
    PtGood { s with ptRetries := s.ptRetries - 1, ptDeadline := deadlineFrom s.cfg (now s) } := by
  obtain ⟨hpt, hwf, hcap, hretries, -⟩ := h
  refine ⟨hpt, hwf, hcap, ?_, deadlineFrom_lt _ _⟩
  exact (toNat_sub_one_of_ne_zero hleft).trans_le ((Nat.sub_le _ _).trans hretries)

theorem ptGood_of_reacts {s t : State} (h : Reacts s t) (hs : PtGood s) : PtGood t := by
  cases h with
  | ignores => exact hs
  | resolves => exact ptGood_idle hs
  | retries f _ hleft _ => exact ptGood_retried hs hleft
  | givesUp => exact ptGood_idle hs
  | delivers => exact hs

theorem ptGood_of_tick {s t : State} (h : TickOutcome s t) (hs : PtGood s) : PtGood t := by
  cases h with
  | waits => exact hs
  | retries f _ hleft _ => exact ptGood_retried hs hleft
  | givesUp => exact ptGood_idle hs

/-- An accepted SEND stores an encoded frame inside PT_FRAME, with its length, every retry left and a fresh deadline
(R172). -/
theorem ptGood_of_send {c : Byte} {p : List Byte} {s t : State} (hlegal : s.cfg.legal = true)
    (h : send c p s = .next t) (hs : PtGood s) : PtGood t := by
  rcases send_next h with ⟨-, rfl⟩ | ⟨-, -, rfl⟩ | ⟨-, hp, rfl⟩
  · exact hs
  · exact hs
  · obtain ⟨-, hwf, hcap, -, -⟩ := hs
    have hlen := ptFlen_of_frameBytes hlegal c hp
    have hread := memRead_writeSpan_same s.ptFrame 0 (frameBytes s.cfg c p)
    have hfits : 0 + (frameBytes s.cfg c p).length ≤ s.cfg.maxFrame := by
      rw [Nat.zero_add]; exact frameBytes_length_le_maxFrame s.cfg c hp
    refine ⟨fun _ => ⟨c, p, hp, hlen, ?_⟩, writeSpan_wf 0 _ hwf,
      memWrite_bound hcap (memWrite_of_le s.ptFrame hfits), le_refl _, deadlineFrom_lt _ _⟩
    rwa [← hlen] at hread

/-! ### The receiver's half -/

theorem rxGood_of_reacts {s t : State} (h : Reacts s t) (hs : RxGood s) : RxGood t := by
  cases h <;> exact hs

/-- A body byte is stored inside RX_BUF, which stays in canonical form (R23, R145). -/
theorem rxBuf_good_storeBodyByte (b : Byte) {s : State} (hs : RxGood s) (hindex : rxIndex s < s.cfg.maxBody) :
    Memory.wf (storeBodyByte b s).rxBuf ∧ ∀ x ∈ (storeBodyByte b s).rxBuf, x.1 < s.cfg.maxBody := by
  obtain ⟨-, hwf, hcap⟩ := hs
  exact ⟨writeByte_wf _ b hwf, memWrite_bound hcap (memWrite_of_le s.rxBuf (bs := [b]) hindex)⟩

/-- The next body byte goes one index further. -/
theorem rxIndex_storeBodyByte (b : Byte) {s : State} (hpos : 1 ≤ s.rxRemain.toNat)
    (hle : s.rxRemain.toNat ≤ s.rxLen.toNat) : rxIndex (storeBodyByte b s) = rxIndex s + 1 := by
  have hcount := storeBodyByte_rxRemain_toNat b hpos
  show s.rxLen.toNat - (storeBodyByte b s).rxRemain.toNat = s.rxLen.toNat - s.rxRemain.toNat + 1
  omega

/-- A byte that is not the last leaves the body read so far one byte longer. -/
theorem rxInv_storeBodyByte (b : Byte) {s : State} (hs : RxInv s) (hfrom : s.rxState = .readBody)
    (hmore : s.rxRemain ≠ 1) : RxInv (storeBodyByte b s) := by
  intro _
  obtain ⟨hmin, hmax, hpos, hle, hread⟩ := hs hfrom
  have hcount := storeBodyByte_rxRemain_toNat b hpos
  have hne : s.rxRemain.toNat ≠ 1 := fun h => hmore (BitVec.eq_of_toNat_eq h)
  obtain ⟨bs, hbs⟩ := Option.isSome_iff_exists.1 hread
  refine ⟨hmin, hmax, by omega, by rw [hcount]; exact (Nat.sub_le _ _).trans hle, ?_⟩
  rw [rxIndex_storeBodyByte b hpos hle]
  exact Option.isSome_of_eq_some (memRead_store_next b hbs)

theorem rxGood_of_feedByteOutcome {b : Byte} {s t : State} (h : FeedByteOutcome b s t) (hs : RxGood s) : RxGood t := by
  cases h with
  | hunts x cs hfrom hto hcs => exact ⟨fun hbody => absurd hbody hto, hs.2⟩
  | starts hfrom hmin hmax =>
    have hpos : 1 ≤ b.toNat := (Nat.le_add_right 1 _).trans hmin
    refine ⟨fun _ => ⟨hmin, hmax, hpos, le_refl _, ?_⟩, hs.2⟩
    simp [rxIndex, memRead]
  | stores hfrom hpos hle hindex hmore =>
    exact ⟨rxInv_storeBodyByte b hs.1 hfrom hmore, rxBuf_good_storeBodyByte b hs hindex⟩
  | drops hfrom hindex hlast => exact ⟨nofun, rxBuf_good_storeBodyByte b hs hindex⟩
  | completes t hfrom hindex hlast hreacts =>
    exact rxGood_of_reacts hreacts ⟨nofun, rxBuf_good_storeBodyByte b hs hindex⟩

theorem ptGood_of_feedByteOutcome {b : Byte} {s t : State} (h : FeedByteOutcome b s t) (hs : PtGood s) : PtGood t := by
  cases h with
  | hunts | starts | stores | drops => exact hs
  | completes t hfrom hindex hlast hreacts =>
    exact ptGood_of_reacts (s := { storeBodyByte b s with rxState := .seekSync1 }) hreacts hs

/-! ### Both halves together -/

theorem cfg_of_reacts {s t : State} (h : Reacts s t) : t.cfg = s.cfg := by cases h <;> rfl

theorem cfg_of_feedByteOutcome {b : Byte} {s t : State} (h : FeedByteOutcome b s t) : t.cfg = s.cfg := by
  cases h with
  | hunts | starts | stores | drops => rfl
  | completes t hfrom hindex hlast hreacts => exact (cfg_of_reacts hreacts :)

theorem inv_of_feedByteOutcome {b : Byte} {s t : State} (h : FeedByteOutcome b s t) (hs : Inv s) : Inv t := by
  obtain ⟨hlegal, hrx, hpt⟩ := (inv_iff s).1 hs
  exact (inv_iff t).2 ⟨by rwa [cfg_of_feedByteOutcome h], rxGood_of_feedByteOutcome h hrx,
    ptGood_of_feedByteOutcome h hpt⟩

theorem rxGood_of_sameRx {s t : State} (hcfg : t.cfg = s.cfg) (h : SameRx s t) (hs : RxGood s) : RxGood t := by
  obtain ⟨hstate, hlen, hremain, hbuf⟩ := h
  simpa only [RxGood, RxInv, rxIndex, hcfg, hstate, hlen, hremain, hbuf] using hs

theorem inv_of_send {c : Byte} {p : List Byte} {s t : State} (h : send c p s = .next t) (hs : Inv s) : Inv t := by
  obtain ⟨hlegal, hrx, hpt⟩ := (inv_iff s).1 hs
  obtain ⟨hsame, ⟨hcfg, -, -⟩, -, -, -⟩ := send_keeps h
  exact (inv_iff t).2 ⟨by rwa [hcfg], rxGood_of_sameRx hcfg hsame hrx, ptGood_of_send hlegal h hpt⟩

theorem inv_of_tick {s t : State} (h : TickOutcome s t) (hs : Inv s) : Inv t := by
  obtain ⟨hlegal, hrx, hpt⟩ := (inv_iff s).1 hs
  obtain ⟨hsame, ⟨hcfg, -, -⟩, -, -, -⟩ := tick_keeps h
  exact (inv_iff t).2 ⟨by rwa [hcfg], rxGood_of_sameRx hcfg hsame hrx, ptGood_of_tick h hpt⟩

/-- RST empties both buffers and leaves nothing pending and no frame in progress (R47). -/
theorem inv_applyReset {s : State} (hlegal : s.cfg.legal = true) (rest : List Input) :
    Inv (applyReset { s with inq := rest }) where
  legal := hlegal
  rx := nofun
  pt := nofun
  buf := ⟨List.Pairwise.nil, List.Pairwise.nil, nofun, nofun⟩
  retries := Nat.zero_le _
  deadline := Nat.two_pow_pos _

/-- A change of the ports T, RES, TX, EV, the inputs or the trace is not the invariant's to see. -/
theorem inv_of_ports {s : State} (hs : Inv s) (portT : Nat) (res : List SendResult) (tx : List (List Byte))
    (ev : List Event) (inq : List Input) (trace : List Condition) :
    Inv { s with portT := portT, res := res, tx := tx, ev := ev, inq := inq, trace := trace } := by
  obtain ⟨hlegal, hrx, hpt, hbuf, hretries, hdeadline⟩ := hs
  exact ⟨hlegal, hrx, hpt, hbuf, hretries, hdeadline⟩

theorem inv_abort {s : State} (hs : Inv s) : Inv (abort s) := by
  obtain ⟨hlegal, hrx, hpt⟩ := (inv_iff s).1 hs
  exact (inv_iff _).2 ⟨hlegal, hrx, ptGood_idle hpt⟩

/-- Settles O46: each operation keeps the invariant, so a step made of them does (`step_induction`). -/
theorem stepKeepsTheInvariant : Obligations.StepKeepsTheInvariant := by
  intro s t hs h
  exact step_induction (R := fun s t => Inv s → Inv t) (fun _ => id) (fun _ _ _ hst htu hs => htu (hst hs))
    (hinput := fun s rest n hs => inv_of_ports hs n _ _ _ rest _)
    (hreset := fun s rest hs => inv_applyReset hs.legal rest)
    (hsend := fun _ _ _ _ => inv_of_send)
    (htick := fun _ _ => inv_of_tick)
    (habort := fun _ => inv_abort)
    (hctrl := fun k s hs => inv_of_ports hs _ _ _ _ _ _)
    (hfeed := fun _ _ _ => inv_of_feedByteOutcome) h hs

/-! ### What is handed to the transport -/

/-- `t` extends the TX of `s` by encoded frames (20_memory.md R51). -/
def EmitsEncoded (s t : State) : Prop :=
  t.cfg = s.cfg ∧ ∃ fs, t.tx = s.tx ++ fs ∧ ∀ f ∈ fs, ∃ c p, encodeFrame s.cfg c p = some f

theorem emitsEncoded_of_same {s t : State} (hcfg : t.cfg = s.cfg) (htx : t.tx = s.tx) : EmitsEncoded s t :=
  ⟨hcfg, [], by rw [htx, List.append_nil], nofun⟩

theorem emitsEncoded_of_frame {s t : State} {c : Byte} {p : List Byte} (hcfg : t.cfg = s.cfg)
    (hp : p.length ≤ s.cfg.maxPayload) (htx : t.tx = s.tx ++ [frameBytes s.cfg c p]) : EmitsEncoded s t :=
  ⟨hcfg, _, htx, fun f hf => ⟨c, p, by rw [List.mem_singleton.1 hf, encodeFrame_of_le c hp]⟩⟩

theorem emitsEncoded_trans {s t u : State} (hst : EmitsEncoded s t) (htu : EmitsEncoded t u) : EmitsEncoded s u := by
  obtain ⟨hcfg, fs, htx, hfs⟩ := hst
  obtain ⟨hcfg', gs, htx', hgs⟩ := htu
  refine ⟨hcfg'.trans hcfg, fs ++ gs, by rw [htx', htx, List.append_assoc], fun f hf => ?_⟩
  rcases List.mem_append.1 hf with hf | hf
  · exact hfs f hf
  · obtain ⟨c, p, h⟩ := hgs f hf
    exact ⟨c, p, by rwa [← hcfg]⟩

/-- What a retry reads from PT_FRAME is the encoded frame stored there (R30). -/
theorem ptFrame_encoded {s : State} {f : List Byte} (hpt : PtInv s) (hsent : s.rcState = .sent)
    (hread : memRead s.ptFrame 0 s.ptFlen.toNat = some f) :
    ∃ c p, p.length ≤ s.cfg.maxPayload ∧ f = frameBytes s.cfg c p := by
  obtain ⟨c, p, hp, -, hstored⟩ := hpt hsent
  exact ⟨c, p, hp, Option.some.inj (hread.symm.trans hstored)⟩

theorem emitsEncoded_of_reacts {s t : State} (h : Reacts s t) (hpt : PtInv s) : EmitsEncoded s t := by
  cases h with
  | ignores | resolves | givesUp => exact emitsEncoded_of_same rfl rfl
  | retries f hsent hleft hread =>
    obtain ⟨c, p, hp, rfl⟩ := ptFrame_encoded hpt hsent hread
    exact emitsEncoded_of_frame rfl hp rfl
  | delivers f =>
    by_cases hauto : s.cfg.autoAck = true
    · exact emitsEncoded_of_frame (c := s.cfg.ackCmd) (p := []) rfl (Nat.zero_le _) (if_pos hauto)
    · exact emitsEncoded_of_same rfl (if_neg hauto)

theorem emitsEncoded_of_feedByteOutcome {b : Byte} {s t : State} (h : FeedByteOutcome b s t) (hpt : PtInv s) :
    EmitsEncoded s t := by
  cases h with
  | hunts | starts | stores | drops => exact emitsEncoded_of_same rfl rfl
  | completes t hfrom hindex hlast hreacts =>
    exact emitsEncoded_of_reacts (s := { storeBodyByte b s with rxState := .seekSync1 }) hreacts hpt

theorem emitsEncoded_of_tick {s t : State} (h : TickOutcome s t) (hpt : PtInv s) : EmitsEncoded s t := by
  cases h with
  | waits | givesUp => exact emitsEncoded_of_same rfl rfl
  | retries f hsent hleft hread =>
    obtain ⟨c, p, hp, rfl⟩ := ptFrame_encoded hpt hsent hread
    exact emitsEncoded_of_frame rfl hp rfl

theorem emitsEncoded_of_send {c : Byte} {p : List Byte} {s t : State} (h : send c p s = .next t) :
    EmitsEncoded s t := by
  rcases send_next h with ⟨-, rfl⟩ | ⟨-, -, rfl⟩ | ⟨-, hp, rfl⟩
  · exact emitsEncoded_of_same rfl rfl
  · exact emitsEncoded_of_same rfl rfl
  · exact emitsEncoded_of_frame rfl hp rfl

/-- Settles O49: a frame on TX is one SEND has just encoded, a control frame, or the stored frame, which the invariant
says is encoded; the invariant is carried along because a packet of many bytes is many operations. -/
theorem everyEmittedFrameIsEncoded : Obligations.EveryEmittedFrameIsEncoded := by
  intro s t hs h f hf
  have hstep := step_induction (R := fun s t => Inv s → Inv t ∧ EmitsEncoded s t)
    (fun _ hs => ⟨hs, emitsEncoded_of_same rfl rfl⟩)
    (fun _ _ _ hst htu hs => ⟨(htu (hst hs).1).1, emitsEncoded_trans (hst hs).2 (htu (hst hs).1).2⟩)
    (hinput := fun s rest n hs => ⟨inv_of_ports hs n _ _ _ rest _, emitsEncoded_of_same rfl rfl⟩)
    (hreset := fun s rest hs => ⟨inv_applyReset hs.legal rest, emitsEncoded_of_same rfl rfl⟩)
    (hsend := fun _ _ _ _ h hs => ⟨inv_of_send h hs, emitsEncoded_of_send h⟩)
    (htick := fun _ _ h hs => ⟨inv_of_tick h hs, emitsEncoded_of_tick h hs.pt⟩)
    (habort := fun _ hs => ⟨inv_abort hs, emitsEncoded_of_same rfl rfl⟩)
    (hctrl := fun k s hs => ⟨inv_of_ports hs _ _ _ _ _ _, emitsEncoded_of_frame rfl (Nat.zero_le _) rfl⟩)
    (hfeed := fun _ _ _ h hs => ⟨inv_of_feedByteOutcome h hs, emitsEncoded_of_feedByteOutcome h hs.pt⟩) h
  obtain ⟨-, -, fs, htx, hfs⟩ := hstep hs
  rw [htx, List.drop_left] at hf
  exact hfs f hf

end Sys2Proof.Machine
end

section
/-! PROOFS. What each operation leaves unchanged, and how the outputs grow (42_receiver_sync.md section 1,
43_reliability.md sections 2, 4 and 5, 60_exceptions.md section 3). -/

namespace Sys2Proof.Machine

/-! ### Bytes on the inbound stream -/

/-- What bytes on the inbound stream keep of everything outside the receiver, and of RX_BUF beyond its capacity. -/
structure InboundKeeps (s t : State) : Prop where
  inputs  : SameInputs s t
  res     : t.res = s.res
  ptFrame : t.ptFrame = s.ptFrame
  ptFlen  : t.ptFlen = s.ptFlen
  tx      : s.tx <+: t.tx
  ev      : s.ev <+: t.ev
  /-- SENT is never entered. -/
  rc      : t.rcState = s.rcState ∨ t.rcState = .idle
  /-- SENT is left with an event only. -/
  quietEv : t.ev = s.ev → t.rcState = s.rcState
  /-- The count and the deadline move with a transmission only. -/
  quietTx : t.tx = s.tx → t.ptRetries = s.ptRetries ∧ t.ptDeadline = s.ptDeadline
  /-- They do not move while nothing is pending. -/
  idle    : s.rcState = .idle → t.ptRetries = s.ptRetries ∧ t.ptDeadline = s.ptDeadline
  rxBuf   : ∀ a, s.cfg.maxBody ≤ a → readByte t.rxBuf a = readByte s.rxBuf a

theorem inboundKeeps_refl (s : State) : InboundKeeps s s where
  inputs := ⟨rfl, rfl, rfl⟩
  res := rfl
  ptFrame := rfl
  ptFlen := rfl
  tx := List.prefix_refl _
  ev := List.prefix_refl _
  rc := .inl rfl
  quietEv := fun _ => rfl
  quietTx := fun _ => ⟨rfl, rfl⟩
  idle := fun _ => ⟨rfl, rfl⟩
  rxBuf := fun _ _ => rfl

theorem InboundKeeps.idle_of_idle {s t : State} (h : InboundKeeps s t) (hidle : s.rcState = .idle) :
    t.rcState = .idle := h.rc.elim (fun hsame => hsame.trans hidle) id

/-- An output that is the same in the end has not grown in between. -/
theorem prefix_between_eq {α : Type} {x y z : List α} (hxy : x <+: y) (hyz : y <+: z) (h : z = x) : y = x ∧ z = y := by
  subst h
  have hy : y = z := List.Sublist.antisymm hyz.sublist hxy.sublist
  exact ⟨hy, hy.symm⟩

theorem inboundKeeps_trans {s t u : State} (hst : InboundKeeps s t) (htu : InboundKeeps t u) : InboundKeeps s u where
  inputs := by
    obtain ⟨hcfg, hport, hinq⟩ := hst.inputs
    obtain ⟨hcfg', hport', hinq'⟩ := htu.inputs
    exact ⟨hcfg'.trans hcfg, hport'.trans hport, hinq'.trans hinq⟩
  res := htu.res.trans hst.res
  ptFrame := htu.ptFrame.trans hst.ptFrame
  ptFlen := htu.ptFlen.trans hst.ptFlen
  tx := hst.tx.trans htu.tx
  ev := hst.ev.trans htu.ev
  rc := htu.rc.elim (fun h => hst.rc.imp h.trans h.trans) .inr
  quietEv := fun h =>
    have ⟨hs, hu⟩ := prefix_between_eq hst.ev htu.ev h
    (htu.quietEv hu).trans (hst.quietEv hs)
  quietTx := fun h =>
    have ⟨hs, hu⟩ := prefix_between_eq hst.tx htu.tx h
    ⟨(htu.quietTx hu).1.trans (hst.quietTx hs).1, (htu.quietTx hu).2.trans (hst.quietTx hs).2⟩
  idle := fun h =>
    have hu := htu.idle (hst.idle_of_idle h)
    ⟨hu.1.trans (hst.idle h).1, hu.2.trans (hst.idle h).2⟩
  rxBuf := fun a ha => (htu.rxBuf a (by rwa [hst.inputs.1])).trans (hst.rxBuf a ha)

/-- An operation that only moves the receiver, below the capacity of RX_BUF. -/
theorem inboundKeeps_of_receiver {s t : State}
    (h : t = { s with rxState := t.rxState, rxLen := t.rxLen, rxRemain := t.rxRemain, rxBuf := t.rxBuf,
                      trace := t.trace })
    (hbuf : ∀ a, s.cfg.maxBody ≤ a → readByte t.rxBuf a = readByte s.rxBuf a) : InboundKeeps s t := by
  have hkeeps := inboundKeeps_refl s
  rw [h]
  exact { hkeeps with rxBuf := hbuf }

theorem inboundKeeps_of_reacts {s t : State} (h : Reacts s t) : InboundKeeps s t := by
  have hkeeps := inboundKeeps_refl s
  cases h with
  | ignores => exact hkeeps
  | resolves hsent =>
    exact { hkeeps with
      ev := List.prefix_append _ _
      rc := .inr rfl
      quietEv := fun h => absurd h (by simp) }
  | retries f hsent =>
    exact { hkeeps with
      tx := List.prefix_append _ _
      quietTx := fun h => absurd h (by simp)
      idle := fun h => absurd hsent (ne_sent_of_idle h) }
  | givesUp hsent =>
    exact { hkeeps with
      ev := List.prefix_append _ _
      rc := .inr rfl
      quietEv := fun h => absurd h (by simp) }
  | delivers f =>
    have htx : s.tx <+: if s.cfg.autoAck = true then s.tx ++ [frameBytes s.cfg s.cfg.ackCmd []] else s.tx := by
      split
      · exact List.prefix_append _ _
      · exact List.prefix_refl _
    exact { hkeeps with
      tx := htx
      ev := List.prefix_append _ _
      quietEv := fun _ => rfl
      quietTx := fun _ => ⟨rfl, rfl⟩ }

theorem inboundKeeps_storeBodyByte (b : Byte) {s : State} (hindex : rxIndex s < s.cfg.maxBody) (x : RxState)
    (tr : List Condition) : InboundKeeps s { storeBodyByte b s with rxState := x, trace := tr } :=
  inboundKeeps_of_receiver rfl fun _ ha => readByte_storeBodyByte_other b s (hindex.trans_le ha).ne'

theorem inboundKeeps_of_feedByteOutcome {b : Byte} {s t : State} (h : FeedByteOutcome b s t) : InboundKeeps s t := by
  cases h with
  | hunts | starts => exact inboundKeeps_of_receiver rfl fun _ _ => rfl
  | stores hfrom hpos hle hindex hmore => exact inboundKeeps_storeBodyByte b hindex s.rxState s.trace
  | drops hfrom hindex hlast => exact inboundKeeps_storeBodyByte b hindex _ _
  | completes t hfrom hindex hlast hreacts =>
    exact inboundKeeps_trans (inboundKeeps_storeBodyByte b hindex .seekSync1 s.trace) (inboundKeeps_of_reacts hreacts)

theorem inboundKeeps_of_feedAll {bs : List Byte} {s t : State} (h : feedAll bs s = .next t) : InboundKeeps s t :=
  feedAll_induction inboundKeeps_refl (fun _ _ _ => inboundKeeps_trans)
    (fun _ _ _ h => inboundKeeps_of_feedByteOutcome (feedByteOutcome_of_next h)) h

theorem InboundKeeps.samePt_of_idle {s t : State} (h : InboundKeeps s t) (hidle : s.rcState = .idle) : SamePt s t :=
  have ⟨hretries, hdeadline⟩ := h.idle hidle
  ⟨(h.idle_of_idle hidle).trans hidle.symm, h.ptFrame, h.ptFlen, hretries, hdeadline⟩

/-- Bytes that emit nothing leave the pending record alone. -/
theorem InboundKeeps.samePt_of_quiet {s t : State} (h : InboundKeeps s t) (htx : t.tx = s.tx) (hev : t.ev = s.ev) :
    SamePt s t :=
  have ⟨hretries, hdeadline⟩ := h.quietTx htx
  ⟨h.quietEv hev, h.ptFrame, h.ptFlen, hretries, hdeadline⟩

theorem exec_feedByte_next {b : Byte} {s t : State} (h : exec (.feedByte b) s = .next t) : FeedByteOutcome b s t :=
  feedByteOutcome_of_next (withLegalCfg_next h).2

theorem sameRx_of_reacts {s t : State} (h : Reacts s t) : SameRx s t := by
  cases h <;> exact ⟨rfl, rfl, rfl, rfl⟩

/-- The receiver's registers and buffer after the last body byte, whether or not a frame follows. -/
theorem rx_of_feedByteOutcome {b : Byte} {s t : State} (h : FeedByteOutcome b s t) :
    (t.rxBuf = s.rxBuf ∨ s.rxState = .readBody ∧ t.rxBuf = writeByte s.rxBuf (rxIndex s) b) ∧
    (s.rxState ≠ .readLength → t.rxLen = s.rxLen) ∧
    (s.rxState ≠ .readLength → s.rxState ≠ .readBody → t.rxRemain = s.rxRemain) := by
  cases h with
  | hunts => exact ⟨.inl rfl, fun _ => rfl, fun _ _ => rfl⟩
  | starts hfrom => exact ⟨.inl rfl, fun h => absurd hfrom h, fun h => absurd hfrom h⟩
  | stores hfrom => exact ⟨.inr ⟨hfrom, rfl⟩, fun _ => rfl, fun _ h => absurd hfrom h⟩
  | drops hfrom => exact ⟨.inr ⟨hfrom, rfl⟩, fun _ => rfl, fun _ h => absurd hfrom h⟩
  | completes t hfrom hindex hlast hreacts =>
    obtain ⟨-, hlen, -, hbuf⟩ := sameRx_of_reacts hreacts
    exact ⟨.inr ⟨hfrom, hbuf⟩, fun _ => hlen, fun _ h => absurd hfrom h⟩

/-- Settles O26: the fields outside the receiver are those of `InboundKeeps`, and the receiver's change by state. -/
theorem feedByteFrame : Obligations.FeedByteFrame := by
  intro s t b h
  have hout := exec_feedByte_next h
  have hkeeps := inboundKeeps_of_feedByteOutcome hout
  obtain ⟨hbuf, hlen, hremain⟩ := rx_of_feedByteOutcome hout
  refine ⟨hkeeps.inputs, hkeeps.res, hkeeps.ptFrame, hkeeps.ptFlen, fun a ha => ?stored, hlen, hremain, hkeeps.rc,
    hkeeps.quietTx, fun hidle => ⟨hkeeps.idle_of_idle hidle, hkeeps.idle hidle⟩⟩
  case stored =>
    rcases hbuf with hbuf | ⟨hfrom, hbuf⟩
    · rw [hbuf]
    · rw [hbuf]
      exact readByte_writeByte_other _ b fun hindex => ha ⟨hfrom, hindex⟩

/-- Settles O35: a frame row feeds its bytes, and each byte keeps what `InboundKeeps` says. -/
theorem frameInstructionsFrame : Obligations.FrameInstructionsFrame := by
  intro s t i hi h
  obtain ⟨bs, hbs⟩ : ∃ bs, inboundBytes s.cfg i = some bs := by
    rcases hi with ⟨l, p, ck, rfl⟩ | ⟨l, p, ck, rfl⟩ | ⟨l, c, p, ck, rfl⟩ <;> exact ⟨_, rfl⟩
  rw [exec_of_inboundBytes hbs] at h
  have hkeeps := inboundKeeps_of_feedAll (withLegalCfg_next h).2
  exact ⟨hkeeps.inputs, hkeeps.res, hkeeps.ptFrame, hkeeps.ptFlen, hkeeps.rxBuf, hkeeps.rc, hkeeps.samePt_of_idle⟩

/-! ### The operations of the controller -/

/-- Settles O44: SEND by its three outcomes, TICK by its outcomes, ABORT and SENDCTRL by their single update. -/
theorem controllerOperationsFrame : Obligations.ControllerOperationsFrame := by
  intro s t i h
  refine ⟨fun c p hi => ?send, fun hi => ?others, fun hi => ?abort, fun ⟨k, hi⟩ => ?ctrl⟩
  case send => subst hi; exact send_keeps (withLegalCfg_next h).2
  case others =>
    rcases hi with rfl | rfl | ⟨k, rfl⟩
    · exact tick_keeps (tickOutcome_of_next (withLegalCfg_next h).2)
    all_goals
      obtain rfl := Host.Outcome.next.inj (withLegalCfg_next h).2
      exact ⟨⟨rfl, rfl, rfl, rfl⟩, ⟨rfl, rfl, rfl⟩, rfl, rfl, rfl⟩
  case abort =>
    subst hi
    obtain rfl := Host.Outcome.next.inj (withLegalCfg_next h).2
    exact ⟨rfl, rfl, rfl, rfl⟩
  case ctrl =>
    subst hi
    obtain rfl := Host.Outcome.next.inj (withLegalCfg_next h).2
    exact ⟨⟨rfl, rfl, rfl, rfl, rfl⟩, rfl⟩

/-! ### The outputs of one operation -/

/-- What one byte adds to the outputs and the trace (60_exceptions.md section 3). -/
def OneByteOutputs (s t : State) : Prop :=
  ∃ (frames : List (List Byte)) (events : List Event) (conds : List Condition),
    t.tx = s.tx ++ frames ∧ frames.length ≤ 1 ∧ t.ev = s.ev ++ events ∧ events.length ≤ 1 ∧
    t.trace = s.trace ++ conds ∧ conds.countP receiverCondition ≤ 1 ∧
    (conds.any receiverCondition = true → conds.length = 1 ∧ frames = [] ∧ events = [])

/-- What a reaction adds to each output, and that it raises no condition of the receiver. -/
theorem outputs_of_reacts {s t : State} (h : Reacts s t) :
    ∃ (frames : List (List Byte)) (events : List Event) (conds : List Condition),
      t.tx = s.tx ++ frames ∧ frames.length ≤ 1 ∧ t.ev = s.ev ++ events ∧ events.length ≤ 1 ∧
      t.trace = s.trace ++ conds ∧ conds.any receiverCondition = false := by
  cases h with
  | ignores => exact ⟨[], [], [], by simp, by decide, by simp, by decide, by simp, rfl⟩
  | resolves => exact ⟨[], _, [], by simp, by decide, rfl, le_refl _, by simp, rfl⟩
  | retries f => exact ⟨_, [], _, rfl, le_refl _, by simp, by decide, rfl, rfl⟩
  | givesUp => exact ⟨[], _, _, by simp, by decide, rfl, le_refl _, rfl, rfl⟩
  | delivers f =>
    by_cases hauto : s.cfg.autoAck = true
    · exact ⟨_, _, [], if_pos hauto, le_refl _, rfl, le_refl _, by simp, rfl⟩
    · exact ⟨[], _, [], by simp [hauto], by decide, rfl, le_refl _, by simp, rfl⟩

theorem countP_eq_zero_of_any_false {cs : List Condition} (h : cs.any receiverCondition = false) :
    cs.countP receiverCondition = 0 :=
  List.countP_eq_zero.2 fun c hc hrec => Bool.false_ne_true (h.symm.trans (List.any_eq_true.2 ⟨c, hc, hrec⟩))

/-- An operation that emits nothing and raises at most one condition. -/
theorem outputs_of_silent {s t : State} {cs : List Condition} (htx : t.tx = s.tx) (hev : t.ev = s.ev)
    (htrace : t.trace = s.trace ++ cs) (hcs : cs.length ≤ 1) : OneByteOutputs s t := by
  refine ⟨[], [], cs, by simp [htx], by decide, by simp [hev], by decide, htrace, List.countP_le_length.trans hcs,
    fun hany => ⟨le_antisymm hcs ?_, rfl, rfl⟩⟩
  obtain ⟨c, hc, -⟩ := List.any_eq_true.1 hany
  exact List.length_pos_of_mem hc

theorem outputs_of_feedByteOutcome {b : Byte} {s t : State} (h : FeedByteOutcome b s t) : OneByteOutputs s t := by
  cases h with
  | hunts x cs hfrom hto hcs => exact outputs_of_silent rfl rfl rfl hcs
  | starts | stores => exact outputs_of_silent rfl rfl (List.append_nil _).symm (by decide)
  | drops => exact outputs_of_silent rfl rfl rfl (le_refl _)
  | completes t hfrom hindex hlast hreacts =>
    obtain ⟨frames, events, conds, htx, hframes, hev, hevents, htrace, hnone⟩ := outputs_of_reacts hreacts
    exact ⟨frames, events, conds, htx, hframes, hev, hevents, htrace, by simp [countP_eq_zero_of_any_false hnone],
      fun hany => absurd (hnone.symm.trans hany) (by decide)⟩

theorem outputs_of_tick {s t : State} (h : TickOutcome s t) :
    ∃ (frames : List (List Byte)) (events : List Event),
      t.tx = s.tx ++ frames ∧ t.ev = s.ev ++ events ∧ t.res = s.res ∧ frames.length + events.length ≤ 1 := by
  cases h with
  | waits => exact ⟨[], [], by simp, by simp, rfl, by simp⟩
  | retries f => exact ⟨[f], [], rfl, (List.append_nil _).symm, rfl, by simp⟩
  | givesUp => exact ⟨[], [_], (List.append_nil _).symm, rfl, rfl, by simp⟩

theorem outputs_of_send {c : Byte} {p : List Byte} {s t : State} (h : send c p s = .next t) :
    ∃ r, t.res = s.res ++ [r] ∧ t.ev = s.ev ∧ (r = .ok → ∃ f, t.tx = s.tx ++ [f]) ∧ (r ≠ .ok → t.tx = s.tx) := by
  rcases send_next h with ⟨-, rfl⟩ | ⟨-, -, rfl⟩ | ⟨-, -, rfl⟩
  · exact ⟨.linkBusy, rfl, rfl, nofun, fun _ => rfl⟩
  · exact ⟨.payloadTooLarge, rfl, rfl, nofun, fun _ => rfl⟩
  · exact ⟨.ok, rfl, rfl, fun _ => ⟨_, rfl⟩, fun h => absurd rfl h⟩

/-- Settles O27: each part reads the additions off the operation's outcomes. -/
theorem outputsOfOneOperation : Obligations.OutputsOfOneOperation :=
  ⟨fun _ _ _ h => outputs_of_feedByteOutcome (exec_feedByte_next h),
    fun _ _ h => outputs_of_tick (tickOutcome_of_next (withLegalCfg_next h).2),
    fun _ _ _ _ h => outputs_of_send (withLegalCfg_next h).2⟩

/-! ### Properties of every step -/

/-- CFG stands and the outputs only grow (R45; log 11 for RES). -/
def Extends (s t : State) : Prop := t.cfg = s.cfg ∧ s.res <+: t.res ∧ s.tx <+: t.tx ∧ s.ev <+: t.ev

theorem extends_refl (s : State) : Extends s s :=
  ⟨rfl, List.prefix_refl _, List.prefix_refl _, List.prefix_refl _⟩

theorem extends_trans {s t u : State} (hst : Extends s t) (htu : Extends t u) : Extends s u := by
  obtain ⟨hcfg, hres, htx, hev⟩ := hst
  obtain ⟨hcfg', hres', htx', hev'⟩ := htu
  exact ⟨hcfg'.trans hcfg, hres.trans hres', htx.trans htx', hev.trans hev'⟩

theorem extends_of_send {c : Byte} {p : List Byte} {s t : State} (h : send c p s = .next t) : Extends s t := by
  rcases send_next h with ⟨-, rfl⟩ | ⟨-, -, rfl⟩ | ⟨-, -, rfl⟩
  · exact ⟨rfl, List.prefix_append _ _, List.prefix_refl _, List.prefix_refl _⟩
  · exact ⟨rfl, List.prefix_append _ _, List.prefix_refl _, List.prefix_refl _⟩
  · exact ⟨rfl, List.prefix_append _ _, List.prefix_append _ _, List.prefix_refl _⟩

theorem extends_of_tick {s t : State} (h : TickOutcome s t) : Extends s t := by
  obtain ⟨-, ⟨hcfg, -, -⟩, hres, -, -⟩ := tick_keeps h
  obtain ⟨frames, events, htx, hev, -, -⟩ := outputs_of_tick h
  exact ⟨hcfg, hres ▸ List.prefix_refl _, htx ▸ List.prefix_append _ _, hev ▸ List.prefix_append _ _⟩

theorem extends_of_inboundKeeps {s t : State} (h : InboundKeeps s t) : Extends s t :=
  ⟨h.inputs.1, h.res ▸ List.prefix_refl _, h.tx, h.ev⟩

/-- Settles O48: every operation extends the outputs, RST and the taking of an input leave them (`step_induction`). -/
theorem configFixedAndOutputsAppendOnly : Obligations.ConfigFixedAndOutputsAppendOnly := by
  intro s t h
  exact step_induction (R := Extends) extends_refl (fun _ _ _ => extends_trans)
    (hinput := fun s _ _ => extends_refl s) (hreset := fun s _ => extends_refl s)
    (hsend := fun _ _ _ _ => extends_of_send) (htick := fun _ _ => extends_of_tick)
    (habort := extends_refl)
    (hctrl := fun _ _ => ⟨rfl, List.prefix_refl _, List.prefix_append _ _, List.prefix_refl _⟩)
    (hfeed := fun _ _ _ h => extends_of_inboundKeeps (inboundKeeps_of_feedByteOutcome h)) h

/-- `t` extends the EV of `s` by events whose delivered frames are ordinary and within their bound. -/
def DeliversOrdinary (s t : State) : Prop :=
  t.cfg = s.cfg ∧ ∃ es, t.ev = s.ev ++ es ∧ ∀ c p, .frameDelivered c p ∈ es →
    c ≠ s.cfg.ackCmd ∧ c ≠ s.cfg.nackCmd ∧ p.length ≤ s.cfg.maxPayload

theorem deliversOrdinary_of_same {s t : State} (hcfg : t.cfg = s.cfg) (hev : t.ev = s.ev) : DeliversOrdinary s t :=
  ⟨hcfg, [], by rw [hev, List.append_nil], fun _ _ h => nomatch h⟩

theorem deliversOrdinary_of_resolved {s t : State} {r : ResolveStatus} (hcfg : t.cfg = s.cfg)
    (hev : t.ev = s.ev ++ [.sendResolved r]) : DeliversOrdinary s t :=
  ⟨hcfg, _, hev, fun _ _ h => nomatch List.mem_singleton.1 h⟩

theorem deliversOrdinary_trans {s t u : State} (hst : DeliversOrdinary s t) (htu : DeliversOrdinary t u) :
    DeliversOrdinary s u := by
  obtain ⟨hcfg, es, hev, hes⟩ := hst
  obtain ⟨hcfg', es', hev', hes'⟩ := htu
  refine ⟨hcfg'.trans hcfg, es ++ es', by rw [hev', hev, List.append_assoc], fun c p hmem => ?_⟩
  rcases List.mem_append.1 hmem with hmem | hmem
  · exact hes c p hmem
  · rw [← hcfg]; exact hes' c p hmem

theorem deliversOrdinary_of_reacts {s t : State} (h : Reacts s t) : DeliversOrdinary s t := by
  cases h with
  | ignores | retries => exact deliversOrdinary_of_same rfl rfl
  | resolves | givesUp => exact deliversOrdinary_of_resolved rfl rfl
  | delivers f hack hnack hsize =>
    refine ⟨rfl, _, rfl, fun c p hmem => ?_⟩
    obtain ⟨rfl, rfl⟩ := Event.frameDelivered.inj (List.mem_singleton.1 hmem)
    exact ⟨hack, hnack, hsize⟩

theorem deliversOrdinary_of_feedByteOutcome {b : Byte} {s t : State} (h : FeedByteOutcome b s t) :
    DeliversOrdinary s t := by
  cases h with
  | hunts | starts | stores | drops => exact deliversOrdinary_of_same rfl rfl
  | completes t hfrom hindex hlast hreacts => exact (deliversOrdinary_of_reacts hreacts :)

theorem deliversOrdinary_of_tick {s t : State} (h : TickOutcome s t) : DeliversOrdinary s t := by
  cases h with
  | waits | retries => exact deliversOrdinary_of_same rfl rfl
  | givesUp => exact deliversOrdinary_of_resolved rfl rfl

theorem deliversOrdinary_of_send {c : Byte} {p : List Byte} {s t : State} (h : send c p s = .next t) :
    DeliversOrdinary s t := by
  obtain ⟨-, ⟨hcfg, -, -⟩, hev, -, -⟩ := send_keeps h
  exact deliversOrdinary_of_same hcfg hev

/-- Settles O50: only the ordinary arm delivers, and `decode` bounds the payload it is given. -/
theorem deliveredFramesAreOrdinary : Obligations.DeliveredFramesAreOrdinary := by
  intro s t c p h hmem
  have hstep : DeliversOrdinary s t :=
    step_induction (fun _ => deliversOrdinary_of_same rfl rfl) (fun _ _ _ => deliversOrdinary_trans)
      (hinput := fun _ _ _ => deliversOrdinary_of_same rfl rfl) (hreset := fun _ _ => deliversOrdinary_of_same rfl rfl)
      (hsend := fun _ _ _ _ => deliversOrdinary_of_send) (htick := fun _ _ => deliversOrdinary_of_tick)
      (habort := fun _ => deliversOrdinary_of_same rfl rfl) (hctrl := fun _ _ => deliversOrdinary_of_same rfl rfl)
      (hfeed := fun _ _ _ => deliversOrdinary_of_feedByteOutcome) h
  obtain ⟨-, es, hev, hes⟩ := hstep
  rw [hev, List.drop_left] at hmem
  exact hes c p hmem

/-! ### Entering and leaving SENT -/

/-- SENT is not entered, and `onSendResolved` is emitted once exactly where it is left. -/
def ResolvesOnLeaving (s t : State) : Prop :=
  (s.rcState = .idle → t.rcState = .idle) ∧
    resolvedCount t.ev = resolvedCount s.ev + if s.rcState = .sent ∧ t.rcState = .idle then 1 else 0

@[simp] theorem resolvedCount_append (es es' : List Event) :
    resolvedCount (es ++ es') = resolvedCount es + resolvedCount es' := List.countP_append

/-- The count where RC_STATE and the number of reports stand. -/
theorem resolvesOnLeaving_of_same {s t : State} (hrc : t.rcState = s.rcState)
    (hev : resolvedCount t.ev = resolvedCount s.ev) : ResolvesOnLeaving s t := by
  refine ⟨hrc.trans, ?_⟩
  rw [hev, if_neg (by rw [hrc]; rintro ⟨hsent, hidle⟩; exact ne_sent_of_idle hidle hsent), Nat.add_zero]

theorem resolvesOnLeaving_of_resolved {s t : State} {r : ResolveStatus} (hsent : s.rcState = .sent)
    (hidle : t.rcState = .idle) (hev : t.ev = s.ev ++ [.sendResolved r]) : ResolvesOnLeaving s t := by
  refine ⟨fun _ => hidle, ?_⟩
  rw [hev, resolvedCount_append, if_pos ⟨hsent, hidle⟩]
  rfl

theorem resolvesOnLeaving_trans {s t u : State} (hst : ResolvesOnLeaving s t) (htu : ResolvesOnLeaving t u) :
    ResolvesOnLeaving s u := by
  obtain ⟨hidle, hcount⟩ := hst
  obtain ⟨hidle', hcount'⟩ := htu
  refine ⟨fun h => hidle' (hidle h), ?_⟩
  rw [hcount', hcount]
  cases hs : s.rcState with
  | idle => simp [hidle hs]
  | sent =>
    cases ht : t.rcState with
    | idle => simp [hidle' ht]
    | sent => simp

theorem resolvesOnLeaving_of_reacts {s t : State} (h : Reacts s t) : ResolvesOnLeaving s t := by
  cases h with
  | ignores | retries => exact resolvesOnLeaving_of_same rfl rfl
  | resolves hsent | givesUp hsent => exact resolvesOnLeaving_of_resolved hsent rfl rfl
  | delivers f => exact resolvesOnLeaving_of_same rfl (resolvedCount_append _ _)

theorem resolvesOnLeaving_of_feedByteOutcome {b : Byte} {s t : State} (h : FeedByteOutcome b s t) :
    ResolvesOnLeaving s t := by
  cases h with
  | hunts | starts | stores | drops => exact resolvesOnLeaving_of_same rfl rfl
  | completes t hfrom hindex hlast hreacts => exact (resolvesOnLeaving_of_reacts hreacts :)

theorem resolvesOnLeaving_of_tick {s t : State} (h : TickOutcome s t) : ResolvesOnLeaving s t := by
  cases h with
  | waits | retries => exact resolvesOnLeaving_of_same rfl rfl
  | givesUp hsent => exact resolvesOnLeaving_of_resolved hsent rfl rfl

/-- SEND resolves nothing and does not leave SENT. -/
theorem resolvedCount_of_send {c : Byte} {p : List Byte} {s t : State} (h : send c p s = .next t) :
    resolvedCount t.ev = resolvedCount s.ev + if s.rcState = .sent ∧ t.rcState = .idle then 1 else 0 := by
  rcases send_next h with ⟨hsent, rfl⟩ | ⟨hidle, -, rfl⟩ | ⟨hidle, -, rfl⟩
  · simp [hsent]
  · simp [hidle]
  · simp

/-- Settles O51: ABORT resolves nothing; a SEND does not leave SENT; every other operation is one of
`ResolvesOnLeaving`, and so is a sequence of them. -/
theorem resolvedExactlyOnLeavingSent : Obligations.ResolvedExactlyOnLeavingSent := by
  intro s t i h
  rcases exec_next h with ⟨c, p, rfl, hsend⟩ | ⟨rfl, htick⟩ | ⟨rfl, rfl⟩ | ⟨k, rfl, rfl⟩ | ⟨bs, hbs, hfeed⟩
  · exact ⟨nofun, fun _ => resolvedCount_of_send hsend⟩
  · exact ⟨nofun, fun _ => (resolvesOnLeaving_of_tick (tickOutcome_of_next htick)).2⟩
  · exact ⟨fun _ => rfl, fun h => absurd rfl h⟩
  · exact ⟨nofun, fun _ => (resolvesOnLeaving_of_same (s := s) (t := sendCtrl k s) rfl rfl).2⟩
  · have hleave : ResolvesOnLeaving s t :=
      feedAll_induction (fun _ => resolvesOnLeaving_of_same rfl rfl) (fun _ _ _ => resolvesOnLeaving_trans)
        (fun _ _ _ h => resolvesOnLeaving_of_feedByteOutcome (feedByteOutcome_of_next h)) hfeed
    exact ⟨fun hi => (by rw [hi] at hbs; cases hbs), fun _ => hleave.2⟩

/-- Settles O52: TICK, ABORT, SENDCTRL and the inbound stream leave IDLE alone; of the three outcomes of SEND only the
accepted one returns Ok, and it goes from IDLE to SENT. -/
theorem onlyAnAcceptedSendEntersSent : Obligations.OnlyAnAcceptedSendEntersSent := by
  intro s t i h
  constructor
  · intro hidle hsent
    have hstay (ht : t.rcState = .idle) : False := ne_sent_of_idle ht hsent
    rcases exec_next h with ⟨c, p, rfl, hsend⟩ | ⟨rfl, htick⟩ | ⟨rfl, rfl⟩ | ⟨k, rfl, rfl⟩ | ⟨bs, -, hfeed⟩
    · rcases send_next hsend with ⟨hbusy, -⟩ | ⟨-, -, rfl⟩ | ⟨-, -, rfl⟩
      · exact absurd hbusy (ne_sent_of_idle hidle)
      · exact (hstay hidle).elim
      · exact ⟨⟨c, p, rfl⟩, rfl⟩
    · exact (hstay ((resolvesOnLeaving_of_tick (tickOutcome_of_next htick)).1 hidle)).elim
    · exact (hstay rfl).elim
    · exact (hstay hidle).elim
    · exact (hstay ((inboundKeeps_of_feedAll hfeed).idle_of_idle hidle)).elim
  · rintro c p rfl hok
    rcases send_next (withLegalCfg_next h).2 with ⟨-, rfl⟩ | ⟨-, -, rfl⟩ | ⟨hne, -, rfl⟩
    · simp at hok
    · simp at hok
    · exact ⟨idle_of_ne_sent hne, rfl⟩

end Sys2Proof.Machine
end

section
/-! PROOFS. In a good state every instruction completes (42_receiver_sync.md sections 1 and 3): the invariant makes
every read find its bytes and every store stay inside its buffer. -/

namespace Sys2Proof.Machine

/-- The stored frame of a pending transmission can be read (R30), so a retry does not fault. -/
theorem attemptFailed_completes {s : State} (hpt : PtInv s) (hsent : s.rcState = .sent) :
    ∃ t, attemptFailed s = .next t := by
  by_cases hnone : s.ptRetries = 0
  · exact ⟨_, attemptFailed_of_no_retries hnone⟩
  · obtain ⟨c, p, -, -, hread⟩ := hpt hsent
    exact ⟨_, (attemptFailed_of_retries_left hnone).trans (retry_of_read hread)⟩

theorem onNack_of_sent {s : State} (h : s.rcState = .sent) : onNack s = attemptFailed (raise .nackReceived s) :=
  if_pos h

theorem onNack_of_idle {s : State} (h : s.rcState = .idle) : onNack s = .next s := if_neg (ne_sent_of_idle h)

theorem onFrame_of_nack {f : Frame} {s : State} (hack : f.command ≠ s.cfg.ackCmd) (hnack : f.command = s.cfg.nackCmd) :
    onFrame f s = onNack s := (if_neg hack).trans (if_pos hnack)

theorem onFrame_completes {s : State} (hpt : PtInv s) (f : Frame) : ∃ t, onFrame f s = .next t := by
  by_cases hack : f.command = s.cfg.ackCmd
  · exact ⟨_, onFrame_of_ack hack⟩
  by_cases hnack : f.command = s.cfg.nackCmd
  · rw [onFrame_of_nack hack hnack]
    cases hrc : s.rcState with
    | idle => exact ⟨s, onNack_of_idle hrc⟩
    | sent =>
      rw [onNack_of_sent hrc]
      exact attemptFailed_completes (s := raise .nackReceived s) hpt hrc
  · exact ⟨_, onFrame_of_ordinary hack hnack⟩

theorem validate_of_frame {s : State} {body : List Byte} {f : Frame}
    (hread : memRead s.rxBuf 0 s.rxLen.toNat = some body)
    (hspan : decodeSpan s.cfg (s.cfg.sync1 :: s.cfg.sync2 :: s.rxLen :: body) = .frame f) :
    validate s = onFrame f { s with rxState := .seekSync1 } := by
  simp only [validate, hread, hspan]

/-- A span inside the precondition of `decode` gives a frame or a checksum mismatch (R123). -/
theorem decodeSpan_of_delimited {cfg : Config} {span : List Byte} (h : delimited cfg span = true) :
    decodeSpan cfg span = .checksumMismatch ∨ ∃ f, decodeSpan cfg span = .frame f := by
  by_cases hck : compute cfg (spanCovered cfg span) = spanClaimed cfg span
  · exact .inr ⟨_, decodeSpan_of_checksum_eq h hck⟩
  · exact .inl (decodeSpan_of_checksum_ne h hck)

theorem validate_completes {s : State} (hpt : PtInv s) (hmin : s.cfg.minBody ≤ s.rxLen.toNat)
    (hmax : s.rxLen.toNat ≤ s.cfg.maxBody) (hread : (memRead s.rxBuf 0 s.rxLen.toNat).isSome = true) :
    ∃ t, validate s = .next t := by
  obtain ⟨body, hbody⟩ := Option.isSome_iff_exists.1 hread
  rcases decodeSpan_of_delimited (delimited_of_body hmin hmax (memRead_length hbody)) with hbad | ⟨f, hf⟩
  · exact ⟨_, validate_of_checksumMismatch hbody hbad⟩
  · rw [validate_of_frame hbody hf]
    exact onFrame_completes (s := { s with rxState := .seekSync1 }) hpt f

/-- With the last byte stored, the body has RX_LEN readable bytes. -/
theorem body_readable_storeBodyByte (b : Byte) {s : State} (hlast : s.rxRemain = 1) (hpos : 1 ≤ s.rxLen.toNat)
    (hread : (memRead s.rxBuf 0 (rxIndex s)).isSome = true) :
    (memRead (storeBodyByte b s).rxBuf 0 s.rxLen.toNat).isSome = true := by
  have hindex : rxIndex s = s.rxLen.toNat - 1 := by rw [rxIndex, hlast]; rfl
  rw [hindex] at hread
  obtain ⟨body, hbody⟩ := Option.isSome_iff_exists.1 hread
  rw [storeBodyByte_of_last b hlast]
  exact Option.isSome_of_eq_some (memRead_writeByte_last b hpos hbody)

theorem readBody_completes (b : Byte) {s : State} (hs : Inv s) (hfrom : s.rxState = .readBody) :
    ∃ t, readBody b s = .next t := by
  obtain ⟨hmin, hmax, hpos, hle, hread⟩ := hs.rx hfrom
  rw [readBody_of_inRange b hpos hle ((rxIndex_lt_rxLen hpos hle).trans_le hmax)]
  split
  · next hlast =>
    exact validate_completes (s := storeBodyByte b s) hs.pt hmin hmax
      (body_readable_storeBodyByte b hlast (hpos.trans hle) hread)
  · exact ⟨_, rfl⟩

theorem feedByte_completes (b : Byte) {s : State} (hs : Inv s) : ∃ t, feedByte b s = .next t := by
  cases hfrom : s.rxState with
  | seekSync1 => exact ⟨_, feedByte_of_seekSync1 hfrom b⟩
  | seekSync2 => exact ⟨_, feedByte_of_seekSync2 hfrom b⟩
  | readLength => exact ⟨_, feedByte_of_readLength hfrom b⟩
  | readBody => rw [feedByte_of_readBody hfrom]; exact readBody_completes b hs hfrom

theorem feedAll_completes (bs : List Byte) {s : State} (hs : Inv s) : ∃ t, feedAll bs s = .next t := by
  induction bs generalizing s with
  | nil => exact ⟨s, rfl⟩
  | cons b bs ih =>
    obtain ⟨u, hu⟩ := feedByte_completes b hs
    rw [feedAll_cons, hu, andThen_next]
    exact ih (inv_of_feedByteOutcome (feedByteOutcome_of_next hu) hs)

theorem tick_completes {s : State} (hs : Inv s) : ∃ t, tick s = .next t := by
  cases hrc : s.rcState with
  | idle => exact ⟨s, tick_of_idle hrc⟩
  | sent =>
    cases hexp : expired s.cfg (now s) s.ptDeadline with
    | false => exact ⟨s, tick_of_not_expired hexp⟩
    | true => rw [tick_of_expired hrc hexp]; exact attemptFailed_completes hs.pt hrc

theorem send_completes (c : Byte) (p : List Byte) (s : State) : ∃ t, send c p s = .next t := by
  cases hrc : s.rcState with
  | sent => exact ⟨_, send_of_sent hrc c p⟩
  | idle =>
    rcases Nat.lt_or_ge s.cfg.maxPayload p.length with hlarge | hp
    · exact ⟨_, send_of_payloadTooLarge hrc c hlarge⟩
    · exact ⟨_, send_of_idle hrc c hp⟩

/-- Settles O47: bytes by induction, since each keeps the invariant; the controller's operations by their cases. -/
theorem everyInstructionCompletes : Obligations.EveryInstructionCompletes := by
  intro s i hs
  cases hin : inboundBytes s.cfg i with
  | some bs =>
    rw [exec_of_inboundBytes hin, withLegalCfg_of_legal hs.legal]
    exact feedAll_completes bs hs
  | none =>
    cases i with
    | send c p => rw [exec_send_of_legal hs.legal]; exact send_completes c p s
    | tick => rw [exec_tick_of_legal hs.legal]; exact tick_completes hs
    | abort => exact ⟨_, exec_abort_of_legal hs.legal⟩
    | sendCtrl k => exact ⟨_, withLegalCfg_of_legal hs.legal _⟩
    | feedByte | frameAck | frameNack | frameOrdinary => cases hin

end Sys2Proof.Machine
end

section
/-! PROOFS. What an operation does not look at: the controller sees nothing of the receiver's context, a byte that
completes no frame sees nothing of the controller, and no operation sees the trace (60_exceptions.md section 1,
20_memory.md section 6). -/

namespace Sys2Proof.Machine

/-- `s` with the ReceiverContext of `r` and the trace `tr`. -/
def withRx (r : State) (tr : List Condition) (s : State) : State :=
  { s with rxState := r.rxState, rxLen := r.rxLen, rxRemain := r.rxRemain, rxBuf := r.rxBuf, trace := tr }

theorem withRx_of_sameRx {r s : State} (h : SameRx r s) (tr : List Condition) : withRx r tr s = { s with trace := tr } := by
  obtain ⟨hstate, hlen, hremain, hbuf⟩ := h
  rw [withRx, ← hstate, ← hlen, ← hremain, ← hbuf]

/-! ### The controller beside any receiver -/

/-- An operation that does the same whatever the receiver's context and the trace are. -/
def IgnoresRx (op : State → Result) : Prop :=
  ∀ (r s t : State) (tr : List Condition), op s = .next t → ∃ tr', op (withRx r tr s) = .next (withRx r tr' t)

theorem ignoresRx_attemptFailed : IgnoresRx attemptFailed := by
  intro r s t tr h
  rcases attemptFailed_next h with ⟨hnone, rfl⟩ | ⟨hleft, hretry⟩
  · exact ⟨_, attemptFailed_of_no_retries (s := withRx r tr s) hnone⟩
  · obtain ⟨f, hread, rfl⟩ := retry_next hretry
    exact ⟨_, (attemptFailed_of_retries_left (s := withRx r tr s) hleft).trans (retry_of_read hread)⟩

theorem ignoresRx_tick : IgnoresRx tick := by
  intro r s t tr h
  rcases tick_next h with ⟨hsent, hexpired, hfailed⟩ | ⟨hno, rfl⟩
  · obtain ⟨tr', h'⟩ := ignoresRx_attemptFailed r s t tr hfailed
    exact ⟨tr', (tick_of_expired (s := withRx r tr s) hsent hexpired).trans h'⟩
  · exact ⟨_, if_neg hno⟩

theorem ignoresRx_send (c : Byte) (p : List Byte) : IgnoresRx (send c p) := by
  intro r s t tr h
  rcases send_next h with ⟨hsent, rfl⟩ | ⟨hidle, hlarge, rfl⟩ | ⟨hidle, hp, rfl⟩
  · exact ⟨_, send_of_sent (s := withRx r tr s) hsent c p⟩
  · exact ⟨_, send_of_payloadTooLarge (s := withRx r tr s) (idle_of_ne_sent hidle) c hlarge⟩
  · exact ⟨_, send_of_idle (s := withRx r tr s) (idle_of_ne_sent hidle) c hp⟩

theorem ignoresRx_withLegalCfg {op : State → Result} (hop : IgnoresRx op) :
    IgnoresRx fun s => withLegalCfg s (op s) := by
  intro r s t tr h
  obtain ⟨hlegal, hnext⟩ := withLegalCfg_next h
  obtain ⟨tr', h'⟩ := hop r s t tr hnext
  exact ⟨tr', (withLegalCfg_of_legal (s := withRx r tr s) hlegal _).trans h'⟩

/-- The four operations of the controller leave the receiver's context alone and do not look at it. -/
theorem controller_exec {i : Instr}
    (hi : (∃ c p, i = .send c p) ∨ i = .tick ∨ i = .abort ∨ ∃ k, i = .sendCtrl k) :
    IgnoresRx (exec i) ∧ ∀ s t, exec i s = .next t → SameRx s t ∧ t.cfg = s.cfg := by
  rcases hi with ⟨c, p, rfl⟩ | rfl | rfl | ⟨k, rfl⟩
  · refine ⟨ignoresRx_withLegalCfg (ignoresRx_send c p), fun s t h => ?_⟩
    obtain ⟨hrx, ⟨hcfg, -, -⟩, -⟩ := send_keeps (withLegalCfg_next h).2
    exact ⟨hrx, hcfg⟩
  · refine ⟨ignoresRx_withLegalCfg ignoresRx_tick, fun s t h => ?_⟩
    obtain ⟨hrx, ⟨hcfg, -, -⟩, -⟩ := tick_keeps (tickOutcome_of_next (withLegalCfg_next h).2)
    exact ⟨hrx, hcfg⟩
  · refine ⟨ignoresRx_withLegalCfg (op := fun s => .next (abort s)) fun r s t tr h => ⟨tr, ?_⟩, fun s t h => ?_⟩
    · obtain rfl := Host.Outcome.next.inj h; rfl
    · obtain rfl := Host.Outcome.next.inj (withLegalCfg_next h).2; exact ⟨⟨rfl, rfl, rfl, rfl⟩, rfl⟩
  · refine ⟨ignoresRx_withLegalCfg (op := fun s => .next (sendCtrl k s)) fun r s t tr h => ⟨tr, ?_⟩, fun s t h => ?_⟩
    · obtain rfl := Host.Outcome.next.inj h; rfl
    · obtain rfl := Host.Outcome.next.inj (withLegalCfg_next h).2; exact ⟨⟨rfl, rfl, rfl, rfl⟩, rfl⟩

/-! ### A byte that completes no frame, beside any controller -/

section
variable {s v : State} (hcfg : v.cfg = s.cfg) (b : Byte) (tr : List Condition)
include hcfg

theorem seekSync1_withRx : ∃ tr', seekSync1 b (withRx s tr v) = withRx (seekSync1 b s) tr' v := by
  have hsame : (withRx s tr v).cfg = s.cfg := hcfg
  by_cases h1 : b = s.cfg.sync1
  · rw [seekSync1_of_eq_sync1 h1, seekSync1_of_eq_sync1 (by rwa [hsame])]
    exact ⟨tr, rfl⟩
  · rw [seekSync1_of_ne_sync1 h1, seekSync1_of_ne_sync1 (by rwa [hsame])]
    exact ⟨_, rfl⟩

theorem seekSync2_withRx : ∃ tr', seekSync2 b (withRx s tr v) = withRx (seekSync2 b s) tr' v := by
  have hsame : (withRx s tr v).cfg = s.cfg := hcfg
  by_cases h2 : b = s.cfg.sync2
  · rw [seekSync2_of_eq_sync2 h2, seekSync2_of_eq_sync2 (by rwa [hsame])]
    exact ⟨tr, rfl⟩
  · by_cases h1 : b = s.cfg.sync1
    · rw [seekSync2_of_eq_sync1 h2 h1, seekSync2_of_eq_sync1 (by rwa [hsame]) (by rwa [hsame])]
      exact ⟨_, rfl⟩
    · rw [seekSync2_of_ne h2 h1, seekSync2_of_ne (by rwa [hsame]) (by rwa [hsame])]
      exact ⟨_, rfl⟩

theorem readLength_withRx : ∃ tr', readLength b (withRx s tr v) = withRx (readLength b s) tr' v := by
  have hsame : (withRx s tr v).cfg = s.cfg := hcfg
  by_cases hin : s.cfg.minBody ≤ b.toNat ∧ b.toNat ≤ s.cfg.maxBody
  · rw [readLength_of_inBounds hin.1 hin.2, readLength_of_inBounds (by rw [hsame]; exact hin.1) (by rw [hsame]; exact hin.2)]
    exact ⟨tr, rfl⟩
  · have hout : b.toNat < s.cfg.minBody ∨ s.cfg.maxBody < b.toNat := by omega
    rw [readLength_of_outOfBounds hout, readLength_of_outOfBounds (by rwa [hsame])]
    exact ⟨_, rfl⟩

theorem readBody_withRx (hmore : s.rxRemain ≠ 1) {t : State} (h : readBody b s = .next t) :
    ∃ tr', readBody b (withRx s tr v) = .next (withRx t tr' v) := by
  obtain ⟨hne, hle, hindex, ⟨hlast, -⟩ | ⟨-, rfl⟩⟩ := readBody_next h
  · exact absurd hlast hmore
  · refine ⟨tr, ?_⟩
    rw [readBody_of_inRange (s := withRx s tr v) b (one_le_toNat_of_ne_zero hne) hle (hcfg ▸ hindex)]
    exact if_neg hmore

/-- Outside the last body byte FEEDBYTE looks at CFG and the receiver's context only. -/
theorem feedByte_withRx (hmore : ¬ (s.rxState = .readBody ∧ s.rxRemain = 1)) {t : State}
    (h : feedByte b s = .next t) : ∃ tr', feedByte b (withRx s tr v) = .next (withRx t tr' v) := by
  rcases feedByte_next h with ⟨hfrom, rfl⟩ | ⟨hfrom, rfl⟩ | ⟨hfrom, rfl⟩ | ⟨hfrom, hbody⟩
  · obtain ⟨tr', h'⟩ := seekSync1_withRx hcfg b tr
    exact ⟨tr', by rw [feedByte_of_seekSync1 (s := withRx s tr v) hfrom, h']⟩
  · obtain ⟨tr', h'⟩ := seekSync2_withRx hcfg b tr
    exact ⟨tr', by rw [feedByte_of_seekSync2 (s := withRx s tr v) hfrom, h']⟩
  · obtain ⟨tr', h'⟩ := readLength_withRx hcfg b tr
    exact ⟨tr', by rw [feedByte_of_readLength (s := withRx s tr v) hfrom, h']⟩
  · obtain ⟨tr', h'⟩ := readBody_withRx hcfg b tr (fun hlast => hmore ⟨hfrom, hlast⟩) hbody
    exact ⟨tr', by rw [feedByte_of_readBody (s := withRx s tr v) hfrom, h']⟩

end

/-- A byte that completes no frame moves the receiver and nothing else. -/
theorem feedByte_moves_receiver {b : Byte} {s t : State} (hmore : ¬ (s.rxState = .readBody ∧ s.rxRemain = 1))
    (h : feedByte b s = .next t) : t = withRx t t.trace s := by
  cases feedByteOutcome_of_next h with
  | hunts | starts | stores => rfl
  | drops hfrom hindex hlast => exact absurd ⟨hfrom, hlast⟩ hmore
  | completes t hfrom hindex hlast => exact absurd ⟨hfrom, hlast⟩ hmore

/-- Settles O55: the controller's operation is the same beside the receiver before the byte, and the byte does the same
beside the controller after the operation. -/
theorem bytesAndControllerOperationsCommute : Obligations.BytesAndControllerOperationsCommute := by
  intro s t b i hmore hi h
  obtain ⟨hignores, hkeeps⟩ := controller_exec hi
  obtain ⟨u, hbyte, hrest⟩ := andThen_eq_next h
  obtain ⟨t', hop, hnil⟩ := andThen_eq_next hrest
  obtain rfl : t' = t := Host.Outcome.next.inj hnil
  obtain ⟨hlegal, hfeed⟩ := withLegalCfg_next hbyte
  obtain ⟨hrx, hcfg⟩ := hkeeps u t' hop
  have hmoved := feedByte_moves_receiver hmore hfeed
  have hs : withRx s s.trace u = s := by rw [hmoved]; rfl
  have hcfg' : t'.cfg = s.cfg := by rw [hcfg, hmoved]; rfl
  obtain ⟨tr', hop'⟩ := hignores s u t' s.trace hop
  rw [hs] at hop'
  obtain ⟨tr'', hfeed'⟩ := feedByte_withRx hcfg' b tr' hmore hfeed
  have hlegal' : (withRx s tr' t').cfg.legal = true := by show t'.cfg.legal = true; rwa [hcfg']
  refine ⟨tr'', ?_⟩
  rw [← withRx_of_sameRx hrx, execAll, hop', andThen_next, execAll, exec_feedByte_of_legal hlegal', hfeed']
  rfl

/-! ### No operation looks at the trace -/

/-- An operation whose result depends on the trace in the trace only. -/
def IgnoresTrace (op : State → Result) : Prop :=
  ∀ (s t : State) (tr : List Condition), op s = .next t → ∃ tr', op { s with trace := tr } = .next { t with trace := tr' }

/-- What does not look at the receiver's context and the trace, and does not move the former. -/
theorem ignoresTrace_of_ignoresRx {op : State → Result} (hop : IgnoresRx op)
    (hrx : ∀ s t, op s = .next t → SameRx s t) : IgnoresTrace op := by
  intro s t tr h
  obtain ⟨tr', h'⟩ := hop s s t tr h
  rw [withRx_of_sameRx ⟨rfl, rfl, rfl, rfl⟩, withRx_of_sameRx (hrx s t h)] at h'
  exact ⟨tr', h'⟩

theorem ignoresTrace_attemptFailed : IgnoresTrace attemptFailed :=
  ignoresTrace_of_ignoresRx ignoresRx_attemptFailed fun _ _ => attemptFailed_sameRx

theorem ignoresTrace_onNack : IgnoresTrace onNack := by
  intro s t tr h
  rcases onNack_next h with ⟨hsent, hfailed⟩ | ⟨hidle, rfl⟩
  · rw [onNack_of_sent (s := { s with trace := tr }) hsent]
    exact ignoresTrace_attemptFailed (raise .nackReceived s) t _ hfailed
  · exact ⟨tr, onNack_of_idle (idle_of_ne_sent hidle)⟩

theorem ignoresTrace_onFrame (f : Frame) : IgnoresTrace (onFrame f) := by
  intro s t tr h
  rcases onFrame_next h with ⟨hack, rfl⟩ | ⟨hack, hnack, hfailed⟩ | ⟨hack, hnack, rfl⟩
  · refine ⟨tr, (onFrame_of_ack (s := { s with trace := tr }) hack).trans ?_⟩
    by_cases hsent : s.rcState = .sent
    · rw [onAck_of_sent hsent, onAck_of_sent (s := { s with trace := tr }) hsent]
    · have hidle := idle_of_ne_sent hsent
      rw [onAck_of_idle hidle, onAck_of_idle (s := { s with trace := tr }) hidle]
  · rw [onFrame_of_nack (s := { s with trace := tr }) hack hnack]
    exact ignoresTrace_onNack s t tr hfailed
  · refine ⟨tr, (onFrame_of_ordinary (s := { s with trace := tr }) hack hnack).trans ?_⟩
    rw [onOrdinary_eq, onOrdinary_eq]

theorem ignoresTrace_validate : IgnoresTrace validate := by
  intro s t tr h
  obtain ⟨body, hread, ⟨hbad, rfl⟩ | ⟨f, hf, hframe⟩⟩ := validate_next h
  · exact ⟨_, validate_of_checksumMismatch (s := { s with trace := tr }) hread hbad⟩
  · rw [validate_of_frame (s := { s with trace := tr }) hread hf]
    exact ignoresTrace_onFrame f _ t tr hframe

theorem ignoresTrace_feedByte (b : Byte) : IgnoresTrace (feedByte b) := by
  intro s t tr h
  by_cases hlast : s.rxState = .readBody ∧ s.rxRemain = 1
  · obtain ⟨hfrom, hlast⟩ := hlast
    rw [feedByte_of_readBody hfrom] at h
    obtain ⟨hne, hle, hindex, -⟩ := readBody_next h
    have hpos := one_le_toNat_of_ne_zero hne
    rw [readBody_of_inRange b hpos hle hindex, if_pos hlast] at h
    rw [feedByte_of_readBody (s := { s with trace := tr }) hfrom,
      readBody_of_inRange (s := { s with trace := tr }) b hpos hle hindex, if_pos hlast]
    exact ignoresTrace_validate _ t tr h
  · obtain ⟨tr', h'⟩ := feedByte_withRx (v := s) rfl b tr hlast h
    refine ⟨tr', h'.trans ?_⟩
    rw [feedByte_moves_receiver hlast h]
    rfl

theorem ignoresTrace_feedAll (bs : List Byte) : IgnoresTrace (feedAll bs) := by
  induction bs with
  | nil => intro s t tr h; obtain rfl := Host.Outcome.next.inj h; exact ⟨tr, rfl⟩
  | cons b bs ih =>
    intro s t tr h
    obtain ⟨u, hu, ht⟩ := andThen_eq_next h
    obtain ⟨tr', hu'⟩ := ignoresTrace_feedByte b s u tr hu
    rw [feedAll_cons, hu', andThen_next]
    exact ih u t tr' ht

/-- Settles O54: an operation of the controller looks at neither the receiver nor the trace; bytes by induction. -/
theorem traceIsInvisible : Obligations.TraceIsInvisible := by
  intro s t i tr h
  cases hin : inboundBytes s.cfg i with
  | some bs =>
    rw [exec_of_inboundBytes hin] at h
    obtain ⟨hlegal, hfeed⟩ := withLegalCfg_next h
    rw [exec_of_inboundBytes (s := { s with trace := tr }) hin, withLegalCfg_of_legal (s := { s with trace := tr }) hlegal]
    exact ignoresTrace_feedAll bs s t tr hfeed
  | none =>
    have hi : (∃ c p, i = .send c p) ∨ i = .tick ∨ i = .abort ∨ ∃ k, i = .sendCtrl k := by
      cases i with
      | send c p => exact .inl ⟨c, p, rfl⟩
      | tick => exact .inr (.inl rfl)
      | abort => exact .inr (.inr (.inl rfl))
      | sendCtrl k => exact .inr (.inr (.inr ⟨k, rfl⟩))
      | feedByte | frameAck | frameNack | frameOrdinary => cases hin
    obtain ⟨hignores, hkeeps⟩ := controller_exec hi
    exact ignoresTrace_of_ignoresRx hignores (fun s t h => (hkeeps s t h).1) s t tr h

end Sys2Proof.Machine
end

section
/-! PROOFS. Bytes fed one after another: stray bytes, whole frames, and the search for the next frame
(30_encoding.md sections 5 and 6, 42_receiver_sync.md sections 2 and 3). -/

namespace Sys2Proof.Machine

/-! ### FEEDBYTE of each byte -/

theorem execAll_feeds_of_legal {s : State} (h : s.cfg.legal = true) (bs : List Byte) :
    execAll (feeds bs) s = feedAll bs s := by
  induction bs generalizing s with
  | nil => rfl
  | cons b bs ih =>
    rw [execAll_feeds_cons, exec_feedByte_of_legal h, feedAll_cons]
    cases hb : feedByte b s with
    | next u =>
      have hcfg := cfg_of_feedByteOutcome (feedByteOutcome_of_next hb)
      exact ih (by rwa [hcfg])
    | fault r => rfl
    | refused r => rfl

/-- An instruction of the inbound stream is FEEDBYTE of its bytes, also under an illegal CFG (R84). -/
theorem exec_eq_execAll_feeds {s : State} {i : Instr} {b : Byte} {bs : List Byte}
    (h : inboundBytes s.cfg i = some (b :: bs)) : exec i s = execAll (feeds (b :: bs)) s := by
  cases hlegal : s.cfg.legal with
  | true => rw [exec_of_inboundBytes h, withLegalCfg_of_legal hlegal, execAll_feeds_of_legal hlegal]
  | false => rw [execAll_feeds_cons, exec_of_illegal hlegal, exec_of_illegal hlegal]; rfl

/-- Settles O30: each frame row puts its own bytes on the inbound stream. -/
theorem frameIsFeedOfItsBytes : Obligations.FrameIsFeedOfItsBytes :=
  fun _ _ _ _ _ => ⟨exec_eq_execAll_feeds rfl, exec_eq_execAll_feeds rfl, exec_eq_execAll_feeds rfl⟩

/-- Settles O19: the decoder's rejection sends the bytes to the receiver. -/
theorem strayBytesAreFed : Obligations.StrayBytesAreFed := by
  intro s t bytes rest e hlegal hinq hdec
  rw [step_of_legal hlegal, takeInput_of_perform hinq,
    runPacket_of_rejected (s := { s with inq := rest, portT := t }) hdec,
    execAll_feeds_of_legal (s := { s with inq := rest, portT := t }) hlegal]
  exact withLegalCfg_of_legal (s := { s with inq := rest, portT := t }) hlegal _

/-! ### The header of a frame -/

theorem feedByte_sync1_of_seekSync1 {s : State} (h : s.rxState = .seekSync1) :
    feedByte s.cfg.sync1 s = .next { s with rxState := .seekSync2 } := by
  rw [feedByte_of_seekSync1 h, seekSync1_of_eq_sync1 rfl]

theorem feedByte_sync1_of_seekSync2 {s : State} (h : s.rxState = .seekSync2) (hne : s.cfg.sync1 ≠ s.cfg.sync2) :
    feedByte s.cfg.sync1 s = .next { s with rxState := .seekSync2, trace := s.trace ++ [.syncLost] } := by
  rw [feedByte_of_seekSync2 h, seekSync2_of_eq_sync1 hne rfl]

theorem feedByte_sync2_of_seekSync2 {s : State} (h : s.rxState = .seekSync2) :
    feedByte s.cfg.sync2 s = .next { s with rxState := .readLength } := by
  rw [feedByte_of_seekSync2 h, seekSync2_of_eq_sync2 rfl]

/-- The receiver waits for a frame: in SEEK_SYNC1, or in SEEK_SYNC2 where SYNC1 is not taken for SYNC2. -/
def Hunting (s : State) : Prop := s.rxState = .seekSync1 ∨ (s.rxState = .seekSync2 ∧ s.cfg.sync1 ≠ s.cfg.sync2)

/-- The marker takes a hunting receiver to READ_LENGTH; from SEEK_SYNC1 no condition is noted. -/
theorem feedAll_marker {s : State} (h : Hunting s) (bs : List Byte) :
    ∃ tr, (s.rxState = .seekSync1 → tr = s.trace) ∧
      feedAll (s.cfg.sync1 :: s.cfg.sync2 :: bs) s = feedAll bs { s with rxState := .readLength, trace := tr } := by
  rcases h with h | ⟨h, hne⟩
  · refine ⟨s.trace, fun _ => rfl, ?_⟩
    rw [feedAll_cons, feedByte_sync1_of_seekSync1 h, andThen_next, feedAll_cons,
      feedByte_sync2_of_seekSync2 (s := { s with rxState := .seekSync2 }) rfl, andThen_next]
  · refine ⟨s.trace ++ [.syncLost], fun h1 => (nomatch h.symm.trans h1), ?_⟩
    rw [feedAll_cons, feedByte_sync1_of_seekSync2 h hne, andThen_next, feedAll_cons,
      feedByte_sync2_of_seekSync2 (s := { s with rxState := .seekSync2, trace := _ }) rfl, andThen_next]

/-! ### The body of a frame -/

theorem writeSpan_append (m : Memory) (i : Nat) (xs ys : List Byte) :
    writeSpan m i (xs ++ ys) = writeSpan (writeSpan m i xs) (i + xs.length) ys := by
  induction xs generalizing m i with
  | nil => rfl
  | cons x xs ih =>
    show writeSpan (writeByte m i x) (i + 1) (xs ++ ys) = _
    rw [ih, List.length_cons, Nat.add_assoc, Nat.add_comm 1]
    rfl

/-- Body bytes that leave at least one more to come are stored one after another. -/
theorem feedAll_storeBodyBytes {s : State} {bs : List Byte} (hfrom : s.rxState = .readBody)
    (hle : s.rxRemain.toNat ≤ s.rxLen.toNat) (hmax : s.rxLen.toNat ≤ s.cfg.maxBody)
    (hmore : bs.length < s.rxRemain.toNat) :
    feedAll bs s = .next { s with rxBuf := writeSpan s.rxBuf (rxIndex s) bs,
                                  rxRemain := s.rxRemain - BitVec.ofNat 8 bs.length } := by
  induction bs generalizing s with
  | nil => simp
  | cons b bs ih =>
    rw [List.length_cons] at hmore
    have hpos : 1 ≤ s.rxRemain.toNat := by omega
    have hne : s.rxRemain ≠ 1 := by rintro h; simp [h] at hmore
    have hcount := storeBodyByte_rxRemain_toNat b hpos
    have hbyte : feedByte b s = .next (storeBodyByte b s) := by
      rw [feedByte_of_readBody hfrom, readBody_of_inRange b hpos hle ((rxIndex_lt_rxLen hpos hle).trans_le hmax),
        if_neg hne]
    have hremain : (storeBodyByte b s).rxRemain - BitVec.ofNat 8 bs.length
        = s.rxRemain - BitVec.ofNat 8 (bs.length + 1) := by
      rw [Nat.add_comm bs.length, BitVec.ofNat_add, ← BitVec.sub_sub]
      rfl
    rw [feedAll_cons, hbyte, andThen_next,
      ih (s := storeBodyByte b s) hfrom (by rw [hcount]; exact (Nat.sub_le _ _).trans hle) hmax (by omega),
      rxIndex_storeBodyByte b hpos hle, hremain]
    rfl

/-- The last byte of a body is stored at its end, and VALIDATE follows (R145). -/
theorem feedByte_of_last {s : State} (b : Byte) (hfrom : s.rxState = .readBody) (hlast : s.rxRemain = 1)
    (hpos : 1 ≤ s.rxLen.toNat) (hmax : s.rxLen.toNat ≤ s.cfg.maxBody) :
    feedByte b s = validate { s with rxBuf := writeByte s.rxBuf (s.rxLen.toNat - 1) b, rxRemain := 0 } := by
  have hone : s.rxRemain.toNat = 1 := by rw [hlast]; rfl
  have hindex : rxIndex s < s.cfg.maxBody := by rw [rxIndex, hone]; omega
  rw [feedByte_of_readBody hfrom, readBody_of_inRange b (by omega) (by omega) hindex, if_pos hlast,
    storeBodyByte_of_last b hlast]

/-- The body of a frame with a legal length: its size is in bounds, and it has a last byte. -/
theorem frame_body_facts {cfg : Config} {l c : Byte} {p ck : List Byte} (hl : lengthOk cfg l p = true)
    (hck : ck.length = cfg.ckSize) :
    cfg.minBody ≤ l.toNat ∧ l.toNat ≤ cfg.maxBody ∧ (c :: (p ++ ck)).length = l.toNat ∧
      ∃ init b, c :: (p ++ ck) = init ++ [b] ∧ init.length + 1 = l.toNat := by
  obtain ⟨hlen, hp⟩ := lengthOk_iff.1 hl
  have hbody : (c :: (p ++ ck)).length = l.toNat := by rw [List.length_cons, List.length_append]; omega
  have hsplit := (List.dropLast_append_getLast (List.cons_ne_nil c (p ++ ck))).symm
  refine ⟨by unfold Config.minBody; omega, by unfold Config.maxBody; omega, hbody, _, _, hsplit, ?_⟩
  rw [List.length_dropLast, hbody]; omega

/-- `s` with a body of `l` bytes received whole. -/
def received (l : Byte) (body : List Byte) (s : State) : State :=
  { s with rxLen := l, rxRemain := 0, rxBuf := writeSpan s.rxBuf 0 body }

theorem memRead_received {l : Byte} {body : List Byte} (hbody : body.length = l.toNat) (s : State) :
    memRead (received l body s).rxBuf 0 l.toNat = some body := by
  rw [← hbody]; exact memRead_writeSpan_same _ _ _

theorem readByte_received {l : Byte} {body : List Byte} (hbody : body.length = l.toNat) (s : State) {a : Nat}
    (ha : l.toNat ≤ a) :
    readByte (received l body s).rxBuf a = readByte s.rxBuf a :=
  readByte_writeSpan_outside _ (.inr (by omega))

section
variable {s : State} {l : Byte} (hhunt : Hunting s) (hmin : s.cfg.minBody ≤ l.toNat) (hmax : l.toNat ≤ s.cfg.maxBody)
include hhunt hmin hmax

/-- A frame up to its last byte: the receiver waits for that byte, and nothing outside it has changed. -/
theorem feedAll_frame_but_last {init : List Byte} (hinit : init.length + 1 = l.toNat) :
    ∃ tr, (s.rxState = .seekSync1 → tr = s.trace) ∧
      feedAll (s.cfg.sync1 :: s.cfg.sync2 :: l :: init) s = .next { s with
        rxState := .readBody, rxLen := l, rxRemain := 1, rxBuf := writeSpan s.rxBuf 0 init, trace := tr } := by
  obtain ⟨tr, htr, hmarker⟩ := feedAll_marker hhunt (l :: init)
  have hindex : rxIndex { s with rxState := .readBody, rxLen := l, rxRemain := l, trace := tr } = 0 :=
    Nat.sub_self l.toNat
  have hone : l - BitVec.ofNat 8 init.length = 1 := by
    rw [show init.length = l.toNat - 1 by omega]; bv_omega
  refine ⟨tr, htr, ?_⟩
  rw [hmarker, feedAll_cons, feedByte_of_readLength rfl,
    readLength_of_inBounds (s := { s with rxState := .readLength, trace := tr }) hmin hmax, andThen_next,
    feedAll_storeBodyBytes (s := { s with rxState := .readBody, rxLen := l, rxRemain := l, trace := tr }) rfl le_rfl hmax
      (show init.length < l.toNat by omega), hindex]
  simp only [hone]

/-- The last byte of a frame brings VALIDATE on the whole body. -/
theorem feedAll_frame {init : List Byte} {b : Byte} (hinit : init.length + 1 = l.toNat) :
    ∃ tr, (s.rxState = .seekSync1 → tr = s.trace) ∧
      feedAll (s.cfg.sync1 :: s.cfg.sync2 :: l :: (init ++ [b])) s
        = validate { received l (init ++ [b]) s with rxState := .readBody, trace := tr } := by
  obtain ⟨tr, htr, hbut⟩ := feedAll_frame_but_last hhunt hmin hmax hinit
  refine ⟨tr, htr, ?_⟩
  have hlen : l.toNat - 1 = init.length := by omega
  have hbuf : writeByte (writeSpan s.rxBuf 0 init) (l.toNat - 1) b = writeSpan s.rxBuf 0 (init ++ [b]) := by
    rw [writeSpan_append, Nat.zero_add, hlen]; rfl
  rw [show s.cfg.sync1 :: s.cfg.sync2 :: l :: (init ++ [b]) = (s.cfg.sync1 :: s.cfg.sync2 :: l :: init) ++ [b] from rfl,
    feedAll_append, hbut, andThen_next, feedAll_singleton]
  refine (feedByte_of_last b rfl rfl ((Nat.le_add_left 1 _).trans_eq hinit) hmax).trans ?_
  simp only [hbuf, received]

end

/-- A frame with a legal length and a checksum field of the right size, whole: it is handed on where the field is right,
and dropped otherwise (R146, R215). -/
theorem feedAll_wireBytes {s : State} {l c : Byte} {p ck : List Byte} (hhunt : Hunting s)
    (hl : lengthOk s.cfg l p = true) (hck : ck.length = s.cfg.ckSize) :
    ∃ tr, (s.rxState = .seekSync1 → tr = s.trace) ∧
      feedAll (wireBytes s.cfg l c p ck) s =
        if checksumOk s.cfg c p ck then
          onFrame { command := c, payload := p }
            { received l (c :: (p ++ ck)) s with rxState := .seekSync1, trace := tr }
        else .next { received l (c :: (p ++ ck)) s with rxState := .seekSync1, trace := tr ++ [.checksumMismatch] } := by
  obtain ⟨hlen, hp⟩ := lengthOk_iff.1 hl
  obtain ⟨hmin, hmax, hbody, init, b, hsplit, hinit⟩ := frame_body_facts (c := c) hl hck
  obtain ⟨tr, htr, hfeed⟩ := feedAll_frame (b := b) hhunt hmin hmax hinit
  rw [← hsplit] at hfeed
  refine ⟨tr, htr, hfeed.trans ?_⟩
  have hread := memRead_received hbody s
  have hdec := decodeSpan_wireBytes c hlen hck hp
  split
  · next hok =>
    exact validate_of_frame (s := { received l (c :: (p ++ ck)) s with rxState := _, trace := _ }) hread
      (hdec.trans (if_pos hok))
  · next hbad =>
    exact validate_of_checksumMismatch (s := { received l (c :: (p ++ ck)) s with rxState := _, trace := _ }) hread
      (hdec.trans (if_neg hbad))

/-- The same from SEEK_SYNC1, where the receiver is again after the frame and the marker notes nothing. -/
theorem feedAll_wireBytes_of_seekSync1 {s : State} {l c : Byte} {p ck : List Byte} (hfrom : s.rxState = .seekSync1)
    (hl : lengthOk s.cfg l p = true) (hck : ck.length = s.cfg.ckSize) :
    feedAll (wireBytes s.cfg l c p ck) s =
      if checksumOk s.cfg c p ck then onFrame { command := c, payload := p } (received l (c :: (p ++ ck)) s)
      else .next { received l (c :: (p ++ ck)) s with trace := s.trace ++ [.checksumMismatch] } := by
  obtain ⟨tr, htr, hfeed⟩ := feedAll_wireBytes (c := c) (.inl hfrom) hl hck
  have hstate : (received l (c :: (p ++ ck)) s).rxState = .seekSync1 := hfrom
  rw [hfeed, htr hfrom, set_rxState_and_trace_of_eq hstate, set_rxState_and_trace_of_eq hstate]
  rfl

/-! ### Encoded frames and garbage (the resynchronisation property) -/

/-- Every initial part of a quiet run is quiet. -/
theorem feedAll_take_quiet {bs : List Byte} {s v : State} (h : feedAll bs s = .next v) (htx : v.tx = s.tx)
    (hev : v.ev = s.ev) (n : Nat) :
    ∃ u, feedAll (bs.take n) s = .next u ∧ SamePt s u ∧ u.tx = s.tx ∧ u.ev = s.ev := by
  rw [← List.take_append_drop n bs, feedAll_append] at h
  obtain ⟨u, hu, hv⟩ := andThen_eq_next h
  have hkeeps := inboundKeeps_of_feedAll hu
  have hkeeps' := inboundKeeps_of_feedAll hv
  have hutx := (prefix_between_eq hkeeps.tx hkeeps'.tx htx).1
  have huev := (prefix_between_eq hkeeps.ev hkeeps'.ev hev).1
  exact ⟨u, hu, hkeeps.samePt_of_quiet hutx huev, hutx, huev⟩

/-- A frame with a legal length is quiet before its last byte, whatever its checksum field. -/
theorem feedAll_take_wireBytes_quiet {s : State} {l c : Byte} {p ck : List Byte} (hhunt : Hunting s)
    (hl : lengthOk s.cfg l p = true) (hck : ck.length = s.cfg.ckSize) {n : Nat}
    (hn : n < (wireBytes s.cfg l c p ck).length) :
    ∃ u, feedAll ((wireBytes s.cfg l c p ck).take n) s = .next u ∧ SamePt s u ∧ u.tx = s.tx ∧ u.ev = s.ev := by
  obtain ⟨hmin, hmax, -, init, b, hsplit, hinit⟩ := frame_body_facts (c := c) hl hck
  obtain ⟨tr, -, hbut⟩ := feedAll_frame_but_last hhunt hmin hmax hinit
  have hwire : wireBytes s.cfg l c p ck = (s.cfg.sync1 :: s.cfg.sync2 :: l :: init) ++ [b] := by
    rw [wireBytes, hsplit]; rfl
  rw [hwire, List.length_append] at hn
  rw [hwire, List.take_append_of_le_length (Nat.le_of_lt_succ hn)]
  exact feedAll_take_quiet hbut rfl rfl n

/-- Settles O28: up to its last byte the frame only moves the receiver, and the last byte hands it on
(`feedAll_wireBytes`). -/
theorem encodedFrameIsReceived : Obligations.EncodedFrameIsReceived := by
  intro s c p hlegal hp hhunt f
  have hl : lengthOk s.cfg (BitVec.ofNat 8 (1 + p.length + s.cfg.ckSize)) p = true :=
    lengthOk_iff.2 ⟨lengthByte_toNat hlegal hp, hp⟩
  have hck := checksumBytes_length s.cfg (compute s.cfg (c :: p))
  constructor
  · intro n hn
    rw [execAll_feeds_of_legal hlegal]
    exact feedAll_take_wireBytes_quiet hhunt hl hck hn
  · obtain ⟨tr, -, hfeed⟩ := feedAll_wireBytes (c := c) hhunt hl hck
    rw [if_pos (checksumOk_iff.2 rfl)] at hfeed
    exact ⟨_, rfl, (execAll_feeds_of_legal hlegal _).trans hfeed⟩

/-- A byte that does not complete a marker: SYNC1 is a candidate for its first byte, any other byte is dropped. -/
theorem feedByte_without_marker {s : State} {b : Byte}
    (h : s.rxState = .seekSync1 ∨ (s.rxState = .seekSync2 ∧ b ≠ s.cfg.sync2)) :
    ∃ x tr, feedByte b s = .next { s with rxState := x, trace := tr } ∧
      (x = .seekSync1 ∨ (x = .seekSync2 ∧ b = s.cfg.sync1)) := by
  by_cases h1 : b = s.cfg.sync1
  · refine ⟨.seekSync2, ?_⟩
    rcases h with hfrom | ⟨hfrom, h2⟩
    · exact ⟨s.trace, by rw [feedByte_of_seekSync1 hfrom, seekSync1_of_eq_sync1 h1], .inr ⟨rfl, h1⟩⟩
    · exact ⟨_, by rw [feedByte_of_seekSync2 hfrom, seekSync2_of_eq_sync1 h2 h1], .inr ⟨rfl, h1⟩⟩
  · refine ⟨.seekSync1, s.trace ++ [.syncLost], ?_, .inl rfl⟩
    rcases h with hfrom | ⟨hfrom, h2⟩
    · rw [feedByte_of_seekSync1 hfrom, seekSync1_of_ne_sync1 h1, ← set_rxState_and_trace_of_eq hfrom]
    · rw [feedByte_of_seekSync2 hfrom, seekSync2_of_ne h2 h1]

/-- Without a marker in the bytes, SYNC2 never follows the SYNC1 that led to SEEK_SYNC2, so the receiver stays in the two
states of the search. -/
theorem feedAll_without_marker {g : List Byte} {s : State}
    (h : s.rxState = .seekSync1 ∨ (s.rxState = .seekSync2 ∧ g.head? ≠ some s.cfg.sync2))
    (hno : ¬ [s.cfg.sync1, s.cfg.sync2] <:+: g) :
    ∃ x tr, feedAll g s = .next { s with rxState := x, trace := tr } ∧ (x = .seekSync1 ∨ x = .seekSync2) := by
  induction g generalizing s with
  | nil => exact ⟨s.rxState, s.trace, rfl, h.imp_right And.left⟩
  | cons b g ih =>
    obtain ⟨x, tr, hbyte, hx⟩ := feedByte_without_marker (b := b)
      (h.imp_right fun ⟨hfrom, hhead⟩ => ⟨hfrom, fun hb => hhead (by rw [hb]; rfl)⟩)
    have hno' : ¬ [s.cfg.sync1, s.cfg.sync2] <:+: g := fun hg => hno (hg.trans (List.suffix_cons b g).isInfix)
    have hhead (h1 : b = s.cfg.sync1) : g.head? ≠ some s.cfg.sync2 := by
      intro hhead
      obtain ⟨g', rfl⟩ := List.head?_eq_some_iff.1 hhead
      rw [h1] at hno
      exact hno (List.prefix_append [s.cfg.sync1, s.cfg.sync2] g').isInfix
    rw [feedAll_cons, hbyte, andThen_next]
    exact ih (s := { s with rxState := x, trace := tr }) (hx.imp_right (And.imp_right hhead)) hno'

/-- Settles O29: `feedAll_without_marker` from SEEK_SYNC1. -/
theorem garbageWithoutMarkerIsAbsorbed : Obligations.GarbageWithoutMarkerIsAbsorbed := by
  intro s g hlegal _ hfrom hno
  obtain ⟨x, tr, hfeed, hx⟩ := feedAll_without_marker (.inl hfrom) hno
  exact ⟨_, (execAll_feeds_of_legal hlegal g).trans hfeed, rfl, hx⟩

end Sys2Proof.Machine
end

section
/-! PROOFS. A frame that arrives whole: what the arm of its class does with it (43_reliability.md section 3), how an
invalid one is dropped (30_encoding.md section 5), and one exchange between two blocks. -/

namespace Sys2Proof.Machine

/-! ### VALIDATE hands the frame on -/

theorem spanCommand_body (s0 s1 l : Byte) (body : List Byte) : spanCommand (s0 :: s1 :: l :: body) = body.headD 0 := by
  cases body <;> rfl

theorem spanPayload_body (cfg : Config) (s0 s1 l : Byte) (body : List Byte) :
    spanPayload cfg (s0 :: s1 :: l :: body) = body.tail.take (l.toNat - 1 - cfg.ckSize) := by
  show ((s0 :: s1 :: l :: body).drop 4).take (3 + (l.toNat - 1 - cfg.ckSize) + 1 - 4) = _
  rw [show 3 + (l.toNat - 1 - cfg.ckSize) + 1 - 4 = l.toNat - 1 - cfg.ckSize by omega, ← List.drop_one]
  rfl

/-- Settles O25: the last byte completes the body, and the fields of R76 read from it are the frame's. -/
theorem goodChecksumHandsTheFrameOn : Obligations.GoodChecksumHandsTheFrameOn := by
  intro s b body hlegal hinv hstate hlast hbody span hck
  obtain ⟨hmin, hmax, hpos, hle, -⟩ := hinv hstate
  have hread := memRead_writeByte_last b (hpos.trans hle) hbody
  have hspan := decodeSpan_of_checksum_eq (delimited_of_body hmin hmax (memRead_length hread)) hck
  rw [spanCommand_body, spanPayload_body] at hspan
  rw [exec_feedByte_of_last b hlegal hinv hstate hlast]
  exact validate_of_frame (s := { s with rxBuf := _, rxRemain := _ }) hread hspan

/-! ### Valid frames in a receiver hunting for a marker -/

/-- The state in which a frame that has arrived whole is acted on. -/
theorem received_spec {s : State} {l c : Byte} {p ck : List Byte} (hl : lengthOk s.cfg l p = true)
    (hck : ck.length = s.cfg.ckSize) :
    let r := received l (c :: (p ++ ck)) s
    r = { s with rxLen := l, rxRemain := 0, rxBuf := r.rxBuf } ∧ memRead r.rxBuf 0 l.toNat = some (c :: (p ++ ck)) ∧
      ∀ a, l.toNat ≤ a → readByte r.rxBuf a = readByte s.rxBuf a :=
  have ⟨_, _, hbody, _⟩ := frame_body_facts (c := c) hl hck
  ⟨rfl, memRead_received hbody s, fun _ => readByte_received hbody s⟩

/-- A valid frame is handed to `onFrame` with its body received (R174). -/
theorem exec_of_valid_frame {s : State} {i : Instr} {l c : Byte} {p ck : List Byte} (hlegal : s.cfg.legal = true)
    (hfrom : s.rxState = .seekSync1) (hi : inboundBytes s.cfg i = some (wireBytes s.cfg l c p ck))
    (hl : lengthOk s.cfg l p = true) (hok : checksumOk s.cfg c p ck = true) :
    exec i s = onFrame { command := c, payload := p } (received l (c :: (p ++ ck)) s) := by
  rw [exec_of_inboundBytes hi, withLegalCfg_of_legal hlegal,
    feedAll_wireBytes_of_seekSync1 hfrom hl (checksumOk_length hok), if_pos hok]

/-- Settles O31: the frame reaches the ACK arm with its body received. -/
theorem ackFrameCompletes : Obligations.AckFrameCompletes := by
  intro s l p ck hlegal hfrom hwf
  obtain ⟨hl, hok⟩ := Bool.and_eq_true_iff.1 hwf
  obtain ⟨hr, hread, hrest⟩ := received_spec (c := s.cfg.ackCmd) hl (checksumOk_length hok)
  refine ⟨_, hr, hread, hrest, fun hsent => ?pending, fun hidle => ?none⟩
  all_goals
    rw [exec_of_valid_frame (i := .frameAck l p ck) hlegal hfrom rfl hl hok, onFrame_of_ack rfl]
  case pending => rw [onAck_of_sent (s := received l (s.cfg.ackCmd :: (p ++ ck)) s) hsent]; rfl
  case none => rw [onAck_of_idle (s := received l (s.cfg.ackCmd :: (p ++ ck)) s) hidle]

/-- Settles O32: the NACK arm notes the condition, and the attempt has failed whatever the deadline. -/
theorem nackFrameCompletes : Obligations.NackFrameCompletes := by
  intro s l p ck hlegal hfrom hwf
  obtain ⟨-, -, -, hcmds, -⟩ := (legal_iff _).1 hlegal
  obtain ⟨hl, hok⟩ := Bool.and_eq_true_iff.1 hwf
  obtain ⟨hr, hread, hrest⟩ := received_spec (c := s.cfg.nackCmd) hl (checksumOk_length hok)
  set r := received l (s.cfg.nackCmd :: (p ++ ck)) s with hrdef
  have hexec : exec (.frameNack l p ck) s = onNack r := by
    rw [exec_of_valid_frame (i := .frameNack l p ck) hlegal hfrom rfl hl hok]
    exact onFrame_of_nack (s := r) hcmds.symm rfl
  refine ⟨r, hr, hread, hrest, fun hsent hleft f hf => ?retry, fun hsent hnone => ?exhausted, fun hidle => ?none⟩
  case retry =>
    rw [hexec, onNack_of_sent (s := r) hsent, attemptFailed_of_retries_left (s := raise .nackReceived r) hleft]
    exact retry_of_read (s := raise .nackReceived r) hf
  case exhausted =>
    rw [hexec, onNack_of_sent (s := r) hsent, attemptFailed_of_no_retries (s := raise .nackReceived r) hnone]
    simp [raise, note, evEmit, hrdef, received]
  case none => rw [hexec, onNack_of_idle (s := r) hidle]

/-- Settles O33: the command is neither reserved value, so the frame reaches the ordinary arm. -/
theorem ordinaryFrameCompletes : Obligations.OrdinaryFrameCompletes := by
  intro s l c p ck hlegal hfrom hwf
  obtain ⟨hframe, hord⟩ := Bool.and_eq_true_iff.1 hwf
  obtain ⟨hl, hok⟩ := Bool.and_eq_true_iff.1 hframe
  obtain ⟨hack, hnack⟩ := Bool.and_eq_true_iff.1 hord
  obtain ⟨hr, hread, hrest⟩ := received_spec (c := c) hl (checksumOk_length hok)
  refine ⟨_, hr, hread, hrest, ?_⟩
  rw [exec_of_valid_frame (i := .frameOrdinary l c p ck) hlegal hfrom rfl hl hok,
    onFrame_of_ordinary (s := received l (c :: (p ++ ck)) s) (of_decide_eq_true hack) (of_decide_eq_true hnack),
    onOrdinary_eq]
  rfl

/-! ### Invalid frames -/

/-- Settles O34: with a legal length the wrong field is found at the last byte; with another length the frame attempt
ends at the length byte, and the receiver hunts on. -/
theorem invalidFrameIsDropped : Obligations.InvalidFrameIsDropped := by
  intro s l c p ck hlegal hfrom
  rw [execAll_feeds_of_legal hlegal]
  refine ⟨fun hl hck hbad => ?checksum, fun hout => ?length⟩
  case checksum =>
    obtain ⟨hr, hread, -⟩ := received_spec (c := c) hl hck
    refine ⟨_, hr, hread, ?_⟩
    rw [feedAll_wireBytes_of_seekSync1 hfrom hl hck, if_neg (by simp [hbad])]
  case length =>
    obtain ⟨tr, htr, hmarker⟩ := feedAll_marker (.inl hfrom) (l :: c :: (p ++ ck))
    obtain rfl := htr hfrom
    rw [execAll_feeds_of_legal (s := { s with trace := s.trace ++ [.lengthOverflow] }) hlegal, wireBytes, hmarker,
      feedAll_cons, feedByte_of_readLength rfl,
      readLength_of_outOfBounds (s := { s with rxState := .readLength }) hout, andThen_next,
      set_rxState_and_trace_of_eq hfrom]

/-! ### One exchange (00_scope.md sections 1 and 2) -/

/-- The bytes of a frame depend on the marker, the checksum policy and its CRC set only. -/
theorem frameBytes_congr {cfg cfg' : Config} (h1 : cfg'.sync1 = cfg.sync1) (h2 : cfg'.sync2 = cfg.sync2)
    (halg : cfg'.ckAlg = cfg.ckAlg) (h8 : cfg'.crc8 = cfg.crc8) (h16 : cfg'.crc16 = cfg.crc16) (c : Byte)
    (p : List Byte) : frameBytes cfg' c p = frameBytes cfg c p := by
  simp only [frameBytes, wireBytes, checksumBytes, compute, Config.ckSize, h1, h2, halg, h8, h16]

/-- An ordinary encoded frame fed to a waiting block is delivered; its pending send stands. -/
theorem encoded_ordinary_frame_is_delivered {s : State} {c : Byte} {p : List Byte} (hlegal : s.cfg.legal = true)
    (hfrom : s.rxState = .seekSync1) (hack : c ≠ s.cfg.ackCmd) (hnack : c ≠ s.cfg.nackCmd)
    (hp : p.length ≤ s.cfg.maxPayload) :
    ∃ t, execAll (feeds (frameBytes s.cfg c p)) s = .next t ∧ t.cfg = s.cfg ∧ t.ev = s.ev ++ [.frameDelivered c p] ∧
      t.rcState = s.rcState := by
  obtain ⟨-, r, hr, hfeed⟩ := encodedFrameIsReceived s c p hlegal hp (.inl hfrom)
  have hcfg : r.cfg = s.cfg := (congrArg State.cfg hr :)
  have hrc : r.rcState = s.rcState := (congrArg State.rcState hr :)
  have hev : r.ev = s.ev := (congrArg State.ev hr :)
  rw [onFrame_of_ordinary (by rwa [hcfg]) (by rwa [hcfg]), onOrdinary_eq] at hfeed
  exact ⟨_, hfeed, hcfg, by rw [hev], hrc⟩

/-- An encoded ACK frame fed to a waiting block resolves its pending send. -/
theorem encoded_ack_frame_resolves {s : State} (hlegal : s.cfg.legal = true) (hfrom : s.rxState = .seekSync1)
    (hsent : s.rcState = .sent) :
    ∃ t, execAll (feeds (frameBytes s.cfg s.cfg.ackCmd [])) s = .next t ∧ t.ev = s.ev ++ [.sendResolved .ok] ∧
      t.rcState = .idle := by
  obtain ⟨-, r, hr, hfeed⟩ := encodedFrameIsReceived s s.cfg.ackCmd [] hlegal (Nat.zero_le _) (.inl hfrom)
  have hcfg : r.cfg = s.cfg := (congrArg State.cfg hr :)
  have hrc : r.rcState = s.rcState := (congrArg State.rcState hr :)
  have hev : r.ev = s.ev := (congrArg State.ev hr :)
  rw [onFrame_of_ack (by rw [hcfg]), onAck_of_sent (hrc.trans hsent)] at hfeed
  exact ⟨_, hfeed, by rw [hev], rfl⟩

/-- Settles O56: the frame SEND emits is the one the other block delivers, since both configurations encode alike, and
the ACK frame of its SENDCTRL resolves the send for the same reason. -/
theorem oneExchangeDeliversAndAcknowledges : Obligations.OneExchangeDeliversAndAcknowledges := by
  rintro a b c p ha hb ⟨h1, h2, halg, h8, h16, hackCmd, hnackCmd⟩ hack hnack hpa hpb hidle harx hbrx
  have hsame := frameBytes_congr h1 h2 halg h8 h16
  have hsend := (exec_send_of_legal ha c p).trans (send_of_idle hidle c hpa)
  obtain ⟨b', hdeliver, hcfg, hev, hrc⟩ :=
    encoded_ordinary_frame_is_delivered hb hbrx (by rwa [hackCmd]) (by rwa [hnackCmd]) hpb
  have hctrl : exec (.sendCtrl .ack) b' = .next (sendCtrl .ack b') := withLegalCfg_of_legal (by rwa [hcfg]) _
  have hreply : (sendCtrl .ack b').tx = b'.tx ++ [frameBytes a.cfg a.cfg.ackCmd []] := by
    show b'.tx ++ [frameBytes b'.cfg b'.cfg.ackCmd []] = _
    rw [hcfg, hsame, hackCmd]
  obtain ⟨a'', hresolve, haev, harc⟩ := encoded_ack_frame_resolves (s := { a with
    res := _, tx := _, ptFrame := _, ptFlen := _, ptRetries := _, ptDeadline := _, rcState := .sent }) ha harx rfl
  rw [hsame] at hdeliver
  exact ⟨_, b', _, a'', _, _, hsend, rfl, hdeliver, hev, hrc, hctrl, hreply, hresolve, haev, harc⟩

end Sys2Proof.Machine
end

section
/-! PROOFS. Time (43_reliability.md section 1): the wrap-safe test, one retry per TICK, and the bound on retries
(section 4). -/

namespace Sys2Proof.Machine

/-! ### The wrap-safe test (R171) -/

/-- The half range of time is what `expired` splits the samples by. -/
theorem two_pow_wTime {cfg : Config} (hlegal : cfg.legal = true) : 2 ^ cfg.wTime = 2 * 2 ^ (cfg.wTime - 1) := by
  obtain ⟨-, -, -, -, hw⟩ := (legal_iff cfg).1 hlegal
  rw [← Nat.pow_succ']
  congr 1
  omega

/-- The test looks at the difference of the unwrapped times only. -/
theorem expired_mod_iff (cfg : Config) (N D : Nat) :
    expired cfg (N % 2 ^ cfg.wTime) (D % 2 ^ cfg.wTime) = true ↔
      ((N : Int) - D) % (2 ^ cfg.wTime : Nat) < (2 ^ (cfg.wTime - 1) : Nat) := by
  rw [expired, decide_eq_true_iff, Int.natCast_mod, Int.natCast_mod, Int.sub_emod (N : Int)]
  push_cast
  rfl

/-- Settles O40: a difference of less than half the range is what the wrapped difference shows, negative ones as at least
half the range. -/
theorem expiredIsThePlainComparison : Obligations.ExpiredIsThePlainComparison := by
  intro cfg N D hlegal hN hD
  rw [expired_mod_iff, two_pow_wTime hlegal]
  generalize 2 ^ (cfg.wTime - 1) = half at hN hD ⊢
  rcases Nat.lt_or_ge N D with hlt | hge
  · rw [← Int.add_emod_right, Int.emod_eq_of_lt (by omega) (by omega)]
    omega
  · rw [Int.emod_eq_of_lt (by omega) (by omega)]
    omega

/-- `expired` on the port's sample of a time and the deadline stored for another. -/
theorem expired_now_iff {s : State} {D : Nat} (hlegal : s.cfg.legal = true) (hD : s.ptDeadline = D % 2 ^ s.cfg.wTime)
    (hafter : s.portT < D + 2 ^ (s.cfg.wTime - 1)) (hbefore : D < s.portT + 2 ^ (s.cfg.wTime - 1)) :
    expired s.cfg (now s) s.ptDeadline = true ↔ D ≤ s.portT := by
  rw [hD]
  exact expiredIsThePlainComparison s.cfg s.portT D hlegal hafter hbefore

/-- A deadline is stored for the time TIMEOUT from now (R171). -/
theorem deadlineFrom_now (s : State) : deadlineFrom s.cfg (now s) = (s.portT + s.cfg.timeout) % 2 ^ s.cfg.wTime :=
  Nat.mod_add_mod _ _ _

/-- A deadline just set is not expired, since TIMEOUT is at least 1 and below half the range (R36). -/
theorem not_expired_of_fresh {s : State} (hlegal : s.cfg.legal = true)
    (hfresh : s.ptDeadline = deadlineFrom s.cfg (now s)) : expired s.cfg (now s) s.ptDeadline = false := by
  obtain ⟨-, hpos, hhalf, -, -⟩ := (legal_iff _).1 hlegal
  rw [deadlineFrom_now] at hfresh
  rw [← Bool.not_eq_true, expired_now_iff hlegal hfresh (by omega) (by omega)]
  omega

/-- Settles O41: a TICK that transmitted has set a fresh deadline. -/
theorem oneTickRetriesOnce : Obligations.OneTickRetriesOnce := by
  intro s t hlegal _ _ h htx
  cases tickOutcome_of_next (withLegalCfg_next h).2 with
  | waits | givesUp => exact absurd rfl htx
  | retries f =>
    exact (exec_tick_of_legal (by exact hlegal)).trans
      (tick_of_not_expired (not_expired_of_fresh (by exact hlegal) rfl))

/-! ### Retry exhaustion (section 4) -/

/-- `k` retransmissions of `f` after a SEND at `start`, no TICK later than `prev`: the deadline stands for the unwrapped
time `D`, not before `k + 1` timeouts, and `prev` has not reached it. -/
structure Pending (f : List Byte) (start prev D k : Nat) (s : State) : Prop where
  legal    : s.cfg.legal = true
  sent     : s.rcState = .sent
  stored   : memRead s.ptFrame 0 s.ptFlen.toNat = some f
  retries  : s.ptRetries.toNat + k = s.cfg.maxRetries.toNat
  deadline : s.ptDeadline = D % 2 ^ s.cfg.wTime
  early    : prev < D
  near     : D ≤ prev + s.cfg.timeout
  late     : start + (k + 1) * s.cfg.timeout ≤ D

section
variable {f : List Byte} {start prev D k T : Nat} {s : State} (h : Pending f start prev D k s) (hT : prev ≤ T)
  (hgap : T - prev ≤ 2 ^ (s.cfg.wTime - 1) - s.cfg.timeout)
include h hT hgap

/-- Under the host's duties a TICK at `T` finds the deadline expired exactly when `T` has reached `D`. -/
theorem Pending.expired_iff : expired s.cfg (now { s with portT := T }) s.ptDeadline = true ↔ D ≤ T := by
  obtain ⟨-, -, hhalf, -, -⟩ := (legal_iff _).1 h.legal
  have hearly := h.early
  have hnear := h.near
  exact expired_now_iff (s := { s with portT := T }) h.legal h.deadline
    (show T < D + 2 ^ (s.cfg.wTime - 1) by omega) (show D < T + 2 ^ (s.cfg.wTime - 1) by omega)

/-- Before the deadline a TICK only lets the time pass. -/
theorem Pending.tick_early (hearly : T < D) :
    exec .tick { s with portT := T } = .next { s with portT := T } ∧ Pending f start T D k { s with portT := T } := by
  have hexp : expired s.cfg (now { s with portT := T }) s.ptDeadline = false := by
    rw [← Bool.not_eq_true, h.expired_iff hT hgap]; omega
  refine ⟨(exec_tick_of_legal (s := { s with portT := T }) h.legal).trans
    (tick_of_not_expired (s := { s with portT := T }) hexp), ?_⟩
  exact { h with early := hearly, near := h.near.trans (Nat.add_le_add_right hT _) }

/-- At the deadline, with a retry left, a TICK retransmits and a new deadline begins. -/
theorem Pending.tick_retry (hlate : D ≤ T) (hleft : s.ptRetries ≠ 0) :
    ∃ t, exec .tick { s with portT := T } = .next t ∧ Pending f start T (T + s.cfg.timeout) (k + 1) t ∧
      t.cfg = s.cfg ∧ t.tx = s.tx ++ [f] ∧ t.ev = s.ev := by
  obtain ⟨-, hpos, -, -, -⟩ := (legal_iff _).1 h.legal
  have hone := one_le_toNat_of_ne_zero hleft
  have hretries : (s.ptRetries - 1).toNat + (k + 1) = s.cfg.maxRetries.toNat := by
    have := h.retries
    rw [toNat_sub_one_of_ne_zero hleft]; omega
  have htime : start + (k + 1 + 1) * s.cfg.timeout ≤ T + s.cfg.timeout := by
    have := h.late
    rw [Nat.succ_mul (k + 1)]
    omega
  refine ⟨_, (exec_tick_of_legal (s := { s with portT := T }) h.legal).trans
    ((tick_of_expired (s := { s with portT := T }) h.sent ((h.expired_iff hT hgap).2 hlate)).trans
      ((attemptFailed_of_retries_left (s := { s with portT := T }) hleft).trans
        (retry_of_read (s := { s with portT := T }) h.stored))), ?_, rfl, rfl, rfl⟩
  exact ⟨h.legal, h.sent, h.stored, hretries, deadlineFrom_now { s with portT := T }, Nat.lt_add_of_pos_right hpos,
    le_refl _, htime⟩

/-- At the deadline, with no retry left, a TICK reports the failure. -/
theorem Pending.tick_exhausted (hlate : D ≤ T) (hnone : s.ptRetries = 0) :
    exec .tick { s with portT := T } = .next (raise .retriesExhausted { s with portT := T }) :=
  (exec_tick_of_legal (s := { s with portT := T }) h.legal).trans
    ((tick_of_expired (s := { s with portT := T }) h.sent ((h.expired_iff hT hgap).2 hlate)).trans
      (attemptFailed_of_no_retries (s := { s with portT := T }) hnone))

end

/-- TICKs do nothing while nothing is pending. -/
theorem ticksAt_of_idle (times : List Nat) {s : State} (hlegal : s.cfg.legal = true) (hidle : s.rcState = .idle) :
    ∃ t, ticksAt times s = .next t ∧ t.tx = s.tx ∧ t.ev = s.ev ∧ t.rcState = .idle := by
  induction times generalizing s with
  | nil => exact ⟨s, rfl, rfl, rfl, hidle⟩
  | cons T times ih =>
    have htick : exec .tick { s with portT := T } = .next { s with portT := T } :=
      (exec_tick_of_legal (s := { s with portT := T }) hlegal).trans (tick_of_idle (s := { s with portT := T }) hidle)
    rw [ticksAt, htick]
    exact ih (s := { s with portT := T }) hlegal hidle

/-- What a run of TICKs at `times` has done to a pending frame, from `s` to `t`: `n` further retransmissions. -/
structure TicksDone (f : List Byte) (start k n : Nat) (times : List Nat) (s t : State) : Prop where
  tx        : t.tx = s.tx ++ List.replicate n f
  bounded   : k + n ≤ s.cfg.maxRetries.toNat
  spaced    : ∀ j, k < j → j ≤ k + n → ∃ T ∈ times, start + j * s.cfg.timeout ≤ T
  pending   : t.rcState = .sent → t.ptRetries.toNat + (k + n) = s.cfg.maxRetries.toNat ∧ t.ev = s.ev
  exhausted : t.rcState = .idle → k + n = s.cfg.maxRetries.toNat ∧ t.ev = s.ev ++ [.sendResolved .retriesExhausted] ∧
    ∃ T ∈ times, start + (s.cfg.maxRetries.toNat + 1) * s.cfg.timeout ≤ T

/-- A TICK before the deadline goes in front. -/
theorem TicksDone.cons_early {f : List Byte} {start k n : Nat} {times : List Nat} {s t : State} (T : Nat)
    (h : TicksDone f start k n times { s with portT := T } t) : TicksDone f start k n (T :: times) s t where
  tx := h.tx
  bounded := h.bounded
  spaced := fun j h1 h2 => List.exists_mem_cons_of_exists (h.spaced j h1 h2)
  pending := h.pending
  exhausted := fun hidle =>
    have ⟨hn, hev, htime⟩ := h.exhausted hidle
    ⟨hn, hev, List.exists_mem_cons_of_exists htime⟩

/-- A TICK that retransmits goes in front: it is retransmission `k + 1`. -/
theorem TicksDone.cons_retry {f : List Byte} {start k n T : Nat} {times : List Nat} {s u t : State}
    (hcfg : u.cfg = s.cfg) (htx : u.tx = s.tx ++ [f]) (hev : u.ev = s.ev) (hT : start + (k + 1) * s.cfg.timeout ≤ T)
    (h : TicksDone f start (k + 1) n times u t) : TicksDone f start k (n + 1) (T :: times) s t where
  tx := by rw [h.tx, htx, List.append_assoc, List.replicate_succ]; rfl
  bounded := by
    have hbound := h.bounded
    rw [hcfg] at hbound
    omega
  spaced := fun j h1 h2 => by
    rcases Nat.lt_or_ge (k + 1) j with hlt | hge
    · rw [← hcfg]; exact List.exists_mem_cons_of_exists (h.spaced j hlt (by omega))
    · obtain rfl : j = k + 1 := by omega
      exact ⟨T, List.mem_cons_self, hT⟩
  pending := fun hsent => by
    obtain ⟨hn, hev'⟩ := h.pending hsent
    rw [hcfg] at hn
    exact ⟨by omega, hev'.trans hev⟩
  exhausted := fun hidle => by
    obtain ⟨hn, hev', htime⟩ := h.exhausted hidle
    rw [hcfg] at hn htime
    exact ⟨by omega, by rw [hev', hev], List.exists_mem_cons_of_exists htime⟩

/-- A TICK that reports the failure, and the idle TICKs after it. -/
theorem TicksDone.of_exhausted {f : List Byte} {start k T : Nat} {times : List Nat} {s t : State}
    (hk : k = s.cfg.maxRetries.toNat) (htx : t.tx = s.tx) (hev : t.ev = s.ev ++ [.sendResolved .retriesExhausted])
    (hidle : t.rcState = .idle) (hT : start + (k + 1) * s.cfg.timeout ≤ T) :
    TicksDone f start k 0 (T :: times) s t where
  tx := by simpa using htx
  bounded := hk.le
  spaced := fun j h1 h2 => by omega
  pending := fun hsent => absurd hsent (ne_sent_of_idle hidle)
  exhausted := fun _ => ⟨hk, hev, T, List.mem_cons_self, hk ▸ hT⟩

/-- The induction over the TICKs: each leaves the frame pending, retransmits it, or reports the failure. -/
theorem ticksAt_of_pending (times : List Nat) {f : List Byte} {start prev D k : Nat} {s : State}
    (h : Pending f start prev D k s)
    (hduty : List.IsChain (fun a b => a ≤ b ∧ b - a ≤ 2 ^ (s.cfg.wTime - 1) - s.cfg.timeout) (prev :: times)) :
    ∃ t n, ticksAt times s = .next t ∧ TicksDone f start k n times s t := by
  induction times generalizing prev D k s with
  | nil =>
    exact ⟨s, 0, rfl, by simp, (Nat.le_add_left _ _).trans_eq h.retries, fun j h1 h2 => by omega,
      fun _ => ⟨h.retries, rfl⟩, fun hidle => absurd h.sent (ne_sent_of_idle hidle)⟩
  | cons T times ih =>
    obtain ⟨⟨hT, hgap⟩, hrest⟩ := List.isChain_cons_cons.1 hduty
    rcases Nat.lt_or_ge T D with hearly | hlate
    · obtain ⟨htick, hpend⟩ := h.tick_early hT hgap hearly
      obtain ⟨t, n, hrun, hdone⟩ := ih hpend hrest
      exact ⟨t, n, by rw [ticksAt, htick]; exact hrun, hdone.cons_early T⟩
    · have htime := h.late.trans hlate
      by_cases hnone : s.ptRetries = 0
      · obtain ⟨t, hrun, htx, hev, hidle⟩ :=
          ticksAt_of_idle times (s := raise .retriesExhausted { s with portT := T }) h.legal rfl
        have hk : k = s.cfg.maxRetries.toNat := by
          have hretries := h.retries
          rw [hnone] at hretries
          simpa using hretries
        exact ⟨t, 0, by rw [ticksAt, h.tick_exhausted hT hgap hlate hnone]; exact hrun,
          .of_exhausted hk htx hev hidle htime⟩
      · obtain ⟨u, htick, hpend, hcfg, htx, hev⟩ := h.tick_retry hT hgap hlate hnone
        rw [← hcfg] at hrest
        obtain ⟨t, n, hrun, hdone⟩ := ih hpend hrest
        exact ⟨t, n + 1, by rw [ticksAt, htick]; exact hrun, .cons_retry hcfg htx hev htime hdone⟩

/-- An accepted SEND leaves its frame pending, with no retransmission made (R172). -/
theorem pending_of_send {c : Byte} {p : List Byte} {s u : State} (hlegal : s.cfg.legal = true)
    (hidle : s.rcState = .idle) (hp : p.length ≤ s.cfg.maxPayload) (h : exec (.send c p) s = .next u) :
    u.cfg = s.cfg ∧ u.tx = s.tx ++ [frameBytes s.cfg c p] ∧ u.ev = s.ev ∧
      Pending (frameBytes s.cfg c p) s.portT s.portT (s.portT + s.cfg.timeout) 0 u := by
  obtain ⟨-, hpos, -, -, -⟩ := (legal_iff _).1 hlegal
  rw [exec_send_of_legal hlegal, send_of_idle hidle c hp, Host.Outcome.next.injEq] at h
  subst h
  refine ⟨rfl, rfl, rfl, hlegal, rfl, ?_, rfl, deadlineFrom_now s, Nat.lt_add_of_pos_right hpos, le_refl _, by simp⟩
  show memRead (writeSpan s.ptFrame 0 _) 0 (BitVec.ofNat 9 (frameBytes s.cfg c p).length).toNat = _
  rw [ptFlen_of_frameBytes hlegal c hp]
  exact memRead_writeSpan_same _ _ _

/-- Settles O53: the SEND starts the induction of `ticksAt_of_pending`. -/
theorem retryExhaustionBound : Obligations.RetryExhaustionBound := by
  intro s u c p times hinv hidle hp hsend hduty
  obtain ⟨hcfg, htx, hev, hpend⟩ := pending_of_send hinv.legal hidle hp hsend
  rw [← hcfg] at hduty
  obtain ⟨t, n, hrun, hdone⟩ := ticksAt_of_pending times hpend hduty
  obtain ⟨htx', hbound, hspaced, hpending, hexhausted⟩ := hdone
  simp only [Nat.zero_add, hcfg, hev] at hbound hspaced hpending hexhausted
  refine ⟨t, n, hrun, hbound, ?_, hspaced, hpending, hexhausted⟩
  rw [htx', htx, List.append_assoc, Nat.add_comm, List.replicate_succ]
  rfl

end Sys2Proof.Machine
end
